-- ==== Sys2Proof/Word.lean ====
section
/-! DEFINITION. The words of the machine: bytes, 16-bit words, 12-bit opcode addresses, register
and key numbers (00_scope.md R10, R11; 30_encoding.md R72). -/

namespace Sys2Proof

/-- A memory byte or the content of a V register or timer (10_state.md R20). -/
abbrev Byte := BitVec 8

/-- An instruction word, the index register, the program counter, a stack entry. -/
abbrev Word := BitVec 16

/-- `NNN`, an address taken from an opcode: 12 bits (30_encoding.md R72). -/
abbrev Addr := BitVec 12

/-- The number of a general register, from a 4-bit field (30_encoding.md R72). -/
abbrev Reg := Fin 16

/-- The number of a key, 0 to 15 (10_state.md R34). -/
abbrev Key := Fin 16

/-- VF, the register that also takes carry, borrow and collision (10_state.md R26). -/
abbrev VF : Reg := 15

end Sys2Proof
end

