-- ==== Sys2Proof/WellFormed.lean ====
section
/-! DEFINITION. Which terms of `Instr` are instructions. Every operand has the exact width of its
field (30_encoding.md R72), so the one thing left to check is BNNN, whose table row has two fields
over the same bits. -/

namespace Sys2Proof

/-- `X = NNN[11:8]` (30_encoding.md R71, R79): the register number that BNNN names is the high nibble
of its address. -/
def highNibbleIs (nnn : Addr) (x : Reg) : Bool := nnn.toNat / 256 == x.val

/-- The instruction is one that some word encodes. -/
def Instr.wellFormed : Instr → Bool
  | .jpV0 nnn x => highNibbleIs nnn x
  | .cls | .ret | .jp _ | .call _ | .seImm _ _ | .sneImm _ _ | .seReg _ _ | .sneReg _ _
  | .ldImm _ _ | .addImm _ _ | .ldReg _ _ | .orReg _ _ | .andReg _ _ | .xorReg _ _ | .addReg _ _
  | .subReg _ _ | .shr _ _ | .subn _ _ | .shl _ _ | .ldI _ | .rnd _ _ | .drw _ _ _ | .skp _
  | .sknp _ | .ldVxDt _ | .ldDtVx _ | .ldStVx _ | .ldVxK _ | .addI _ | .ldF _ | .ldB _
  | .ldMemVx _ | .ldVxMem _ => true

end Sys2Proof
end

