-- ==== Sys2Proof/Decode.lean ====
section
/-! DEFINITION. Encoding: the fields of a word (30_encoding.md R71, R72), the opcode map as a table
(R74), the decoder as a walk by family (R73, R75, R76), and the encoder (R82). -/

namespace Sys2Proof

/-! ### Fields and byte order -/

/-- The two bytes of an instruction, the one at the lower address first: the high byte is first
(20_memory.md R55). -/
def wordOfBytes (hi lo : Byte) : Word := hi ++ lo

/-- The bytes of a word in the order in which they lie in memory (20_memory.md R55). -/
def bytesOfWord (op : Word) : List Byte := [op.extractLsb 15 8, op.extractLsb 7 0]

/-- The family nibble, `op[15:12]` (30_encoding.md R71). -/
def family (op : Word) : Nat := (op.extractLsb 15 12).toNat

/-- `X = op[11:8]`. -/
def fieldX (op : Word) : Reg := (op.extractLsb 11 8).toFin

/-- `Y = op[7:4]`. -/
def fieldY (op : Word) : Reg := (op.extractLsb 7 4).toFin

/-- `N = op[3:0]`. -/
def fieldN (op : Word) : Fin 16 := (op.extractLsb 3 0).toFin

/-- `NN = op[7:0]`. -/
def fieldNN (op : Word) : Byte := op.extractLsb 7 0

/-- `NNN = op[11:0]`. -/
def fieldNNN (op : Word) : Addr := op.extractLsb 11 0

/-! ### The opcode map as a table -/

/-- One row of the opcode map: a word `op` selects it when `(op & mask) = value` (30_encoding.md R73). -/
structure OpcodeRow where
  mnemonic : String
  mask : Word
  value : Word
  deriving DecidableEq, Repr

/-- The word selects the row. -/
def OpcodeRow.selectedBy (r : OpcodeRow) (op : Word) : Bool := op &&& r.mask == r.value

/-- Rows 1 to 8 of 30_encoding.md R74. -/
def opcodeRowsControl : List OpcodeRow :=
  [⟨"CLS", 0xFFFF, 0x00E0⟩, ⟨"RET", 0xFFFF, 0x00EE⟩, ⟨"JP_NNN", 0xF000, 0x1000⟩,
   ⟨"CALL_NNN", 0xF000, 0x2000⟩, ⟨"SE_VX__NN", 0xF000, 0x3000⟩, ⟨"SNE_VX__NN", 0xF000, 0x4000⟩,
   ⟨"SE_VX__VY", 0xF00F, 0x5000⟩, ⟨"SNE_VX__VY", 0xF00F, 0x9000⟩]

/-- Rows 9 to 19 of 30_encoding.md R74. -/
def opcodeRowsRegister : List OpcodeRow :=
  [⟨"LD_VX__NN", 0xF000, 0x6000⟩, ⟨"ADD_VX__NN", 0xF000, 0x7000⟩, ⟨"LD_VX__VY", 0xF00F, 0x8000⟩,
   ⟨"OR_VX__VY", 0xF00F, 0x8001⟩, ⟨"AND_VX__VY", 0xF00F, 0x8002⟩, ⟨"XOR_VX__VY", 0xF00F, 0x8003⟩,
   ⟨"ADD_VX__VY", 0xF00F, 0x8004⟩, ⟨"SUB_VX__VY", 0xF00F, 0x8005⟩, ⟨"SHR_VX__VY", 0xF00F, 0x8006⟩,
   ⟨"SUBN_VX__VY", 0xF00F, 0x8007⟩, ⟨"SHL_VX__VY", 0xF00F, 0x800E⟩]

/-- Rows 20 to 25 of 30_encoding.md R74. -/
def opcodeRowsIndex : List OpcodeRow :=
  [⟨"LD_I__NNN", 0xF000, 0xA000⟩, ⟨"JP_V0__NNN", 0xF000, 0xB000⟩, ⟨"RND_VX__NN", 0xF000, 0xC000⟩,
   ⟨"DRW_VX__VY__N", 0xF000, 0xD000⟩, ⟨"SKP_VX", 0xF0FF, 0xE09E⟩, ⟨"SKNP_VX", 0xF0FF, 0xE0A1⟩]

/-- Rows 26 to 34 of 30_encoding.md R74. -/
def opcodeRowsMisc : List OpcodeRow :=
  [⟨"LD_VX__DT", 0xF0FF, 0xF007⟩, ⟨"LD_DT__VX", 0xF0FF, 0xF015⟩, ⟨"LD_ST__VX", 0xF0FF, 0xF018⟩,
   ⟨"LD_VX__K", 0xF0FF, 0xF00A⟩, ⟨"ADD_I__VX", 0xF0FF, 0xF01E⟩, ⟨"LD_F__VX", 0xF0FF, 0xF029⟩,
   ⟨"LD_B__VX", 0xF0FF, 0xF033⟩, ⟨"LD__I___VX", 0xF0FF, 0xF055⟩, ⟨"LD_VX___I", 0xF0FF, 0xF065⟩]

/-- The complete opcode map, in the order of 30_encoding.md R74. -/
def opcodeTable : List OpcodeRow :=
  opcodeRowsControl ++ opcodeRowsRegister ++ opcodeRowsIndex ++ opcodeRowsMisc

/-- The instruction's mnemonic, as spec/opcode_table.json spells it. -/
def Instr.mnemonic : Instr → String
  | .cls => "CLS" | .ret => "RET" | .jp _ => "JP_NNN" | .call _ => "CALL_NNN"
  | .seImm _ _ => "SE_VX__NN" | .sneImm _ _ => "SNE_VX__NN"
  | .seReg _ _ => "SE_VX__VY" | .sneReg _ _ => "SNE_VX__VY"
  | .ldImm _ _ => "LD_VX__NN" | .addImm _ _ => "ADD_VX__NN" | .ldReg _ _ => "LD_VX__VY"
  | .orReg _ _ => "OR_VX__VY" | .andReg _ _ => "AND_VX__VY" | .xorReg _ _ => "XOR_VX__VY"
  | .addReg _ _ => "ADD_VX__VY" | .subReg _ _ => "SUB_VX__VY" | .shr _ _ => "SHR_VX__VY"
  | .subn _ _ => "SUBN_VX__VY" | .shl _ _ => "SHL_VX__VY"
  | .ldI _ => "LD_I__NNN" | .jpV0 _ _ => "JP_V0__NNN" | .rnd _ _ => "RND_VX__NN"
  | .drw _ _ _ => "DRW_VX__VY__N" | .skp _ => "SKP_VX" | .sknp _ => "SKNP_VX"
  | .ldVxDt _ => "LD_VX__DT" | .ldDtVx _ => "LD_DT__VX" | .ldStVx _ => "LD_ST__VX"
  | .ldVxK _ => "LD_VX__K" | .addI _ => "ADD_I__VX" | .ldF _ => "LD_F__VX" | .ldB _ => "LD_B__VX"
  | .ldMemVx _ => "LD__I___VX" | .ldVxMem _ => "LD_VX___I"

/-! ### The decoder -/

/-- Why bytes are no instruction. -/
inductive DecodeError where
  /-- The word matches no row of the opcode map (30_encoding.md R76). -/
  | undefinedWord (op : Word)
  /-- Fewer than two bytes: no instruction is shorter (30_encoding.md R70). -/
  | truncated (bytes : List Byte)
  deriving DecidableEq, Repr

/-- Family 0x8: the last nibble selects among 0 to 7 and E (30_encoding.md R75). -/
def decodeRegister (op : Word) : Except DecodeError Instr :=
  match (fieldN op).val with
  | 0x0 => .ok (.ldReg (fieldX op) (fieldY op))
  | 0x1 => .ok (.orReg (fieldX op) (fieldY op))
  | 0x2 => .ok (.andReg (fieldX op) (fieldY op))
  | 0x3 => .ok (.xorReg (fieldX op) (fieldY op))
  | 0x4 => .ok (.addReg (fieldX op) (fieldY op))
  | 0x5 => .ok (.subReg (fieldX op) (fieldY op))
  | 0x6 => .ok (.shr (fieldX op) (fieldY op))
  | 0x7 => .ok (.subn (fieldX op) (fieldY op))
  | 0xE => .ok (.shl (fieldX op) (fieldY op))
  | _ => .error (.undefinedWord op)

/-- Family 0xE: the low byte must be 0x9E or 0xA1 (30_encoding.md R75). -/
def decodeKey (op : Word) : Except DecodeError Instr :=
  match (fieldNN op).toNat with
  | 0x9E => .ok (.skp (fieldX op))
  | 0xA1 => .ok (.sknp (fieldX op))
  | _ => .error (.undefinedWord op)

/-- Family 0xF: the low byte selects one of nine (30_encoding.md R75). -/
def decodeMisc (op : Word) : Except DecodeError Instr :=
  match (fieldNN op).toNat with
  | 0x07 => .ok (.ldVxDt (fieldX op))
  | 0x0A => .ok (.ldVxK (fieldX op))
  | 0x15 => .ok (.ldDtVx (fieldX op))
  | 0x18 => .ok (.ldStVx (fieldX op))
  | 0x1E => .ok (.addI (fieldX op))
  | 0x29 => .ok (.ldF (fieldX op))
  | 0x33 => .ok (.ldB (fieldX op))
  | 0x55 => .ok (.ldMemVx (fieldX op))
  | 0x65 => .ok (.ldVxMem (fieldX op))
  | _ => .error (.undefinedWord op)

/-- Family 0x0: the whole word must be 0x00E0 or 0x00EE (30_encoding.md R75, R78). -/
def decodeSystem (op : Word) : Except DecodeError Instr :=
  match op.toNat with
  | 0x00E0 => .ok .cls
  | 0x00EE => .ok .ret
  | _ => .error (.undefinedWord op)

/-- Families 0x5 and 0x9: the last nibble must be 0 (30_encoding.md R77). -/
def decodeCompare (i : Instr) (op : Word) : Except DecodeError Instr :=
  if (fieldN op).val = 0 then .ok i else .error (.undefinedWord op)

/-- The decoder: total on words, reads no state (30_encoding.md R73, R75, R79). -/
def decode (op : Word) : Except DecodeError Instr :=
  match family op with
  | 0x0 => decodeSystem op
  | 0x1 => .ok (.jp (fieldNNN op))
  | 0x2 => .ok (.call (fieldNNN op))
  | 0x3 => .ok (.seImm (fieldX op) (fieldNN op))
  | 0x4 => .ok (.sneImm (fieldX op) (fieldNN op))
  | 0x5 => decodeCompare (.seReg (fieldX op) (fieldY op)) op
  | 0x6 => .ok (.ldImm (fieldX op) (fieldNN op))
  | 0x7 => .ok (.addImm (fieldX op) (fieldNN op))
  | 0x8 => decodeRegister op
  | 0x9 => decodeCompare (.sneReg (fieldX op) (fieldY op)) op
  | 0xA => .ok (.ldI (fieldNNN op))
  | 0xB => .ok (.jpV0 (fieldNNN op) (fieldX op))
  | 0xC => .ok (.rnd (fieldX op) (fieldNN op))
  | 0xD => .ok (.drw (fieldX op) (fieldY op) (fieldN op))
  | 0xE => decodeKey op
  | _ => decodeMisc op

/-- The decoder on bytes: total on any list, and answers the bytes after the instruction. -/
def decodeBytes : List Byte → Except DecodeError (Instr × List Byte)
  | hi :: lo :: rest =>
    match decode (wordOfBytes hi lo) with
    | .ok i => .ok (i, rest)
    | .error e => .error e
  | bs => .error (.truncated bs)

/-! ### The encoder -/

/-- Format `NNN` (30_encoding.md R71). -/
def formatNNN (f : BitVec 4) (nnn : Addr) : Word := f ++ nnn

/-- Formats `XNN` and `X`: the low byte is an operand or fixed (30_encoding.md R71). -/
def formatXNN (f : BitVec 4) (x : Reg) (nn : Byte) : Word := f ++ BitVec.ofFin (w := 4) x ++ nn

/-- Formats `XY` and `XYN`: the last nibble is fixed or an operand (30_encoding.md R71). -/
def formatXYN (f : BitVec 4) (x y : Reg) (n : Fin 16) : Word :=
  f ++ BitVec.ofFin (w := 4) x ++ BitVec.ofFin (w := 4) y ++ BitVec.ofFin (w := 4) n

/-- The word of an instruction (30_encoding.md R74, R82). -/
def encode : Instr → Word
  | .cls => 0x00E0
  | .ret => 0x00EE
  | .jp nnn => formatNNN 0x1 nnn
  | .call nnn => formatNNN 0x2 nnn
  | .seImm x nn => formatXNN 0x3 x nn
  | .sneImm x nn => formatXNN 0x4 x nn
  | .seReg x y => formatXYN 0x5 x y 0x0
  | .sneReg x y => formatXYN 0x9 x y 0x0
  | .ldImm x nn => formatXNN 0x6 x nn
  | .addImm x nn => formatXNN 0x7 x nn
  | .ldReg x y => formatXYN 0x8 x y 0x0
  | .orReg x y => formatXYN 0x8 x y 0x1
  | .andReg x y => formatXYN 0x8 x y 0x2
  | .xorReg x y => formatXYN 0x8 x y 0x3
  | .addReg x y => formatXYN 0x8 x y 0x4
  | .subReg x y => formatXYN 0x8 x y 0x5
  | .shr x y => formatXYN 0x8 x y 0x6
  | .subn x y => formatXYN 0x8 x y 0x7
  | .shl x y => formatXYN 0x8 x y 0xE
  | .ldI nnn => formatNNN 0xA nnn
  | .jpV0 nnn _ => formatNNN 0xB nnn
  | .rnd x nn => formatXNN 0xC x nn
  | .drw x y n => formatXYN 0xD x y n
  | .skp x => formatXNN 0xE x 0x9E
  | .sknp x => formatXNN 0xE x 0xA1
  | .ldVxDt x => formatXNN 0xF x 0x07
  | .ldDtVx x => formatXNN 0xF x 0x15
  | .ldStVx x => formatXNN 0xF x 0x18
  | .ldVxK x => formatXNN 0xF x 0x0A
  | .addI x => formatXNN 0xF x 0x1E
  | .ldF x => formatXNN 0xF x 0x29
  | .ldB x => formatXNN 0xF x 0x33
  | .ldMemVx x => formatXNN 0xF x 0x55
  | .ldVxMem x => formatXNN 0xF x 0x65

/-- The bytes of an instruction as they lie in memory (30_encoding.md R82). -/
def encodeBytes (i : Instr) : List Byte := bytesOfWord (encode i)

/-! ### The host's question -/

/-- The instruction that the decoder reads from the `nbits` bits `w`, numbered as
spec/opcode_table.json numbers them: one 16-bit word, its bytes laid out high byte first. -/
def decodeTableWord (nbits w : Nat) : Option Instr :=
  match decodeBytes (bytesOfWord (BitVec.ofNat 16 (w % 2 ^ nbits))) with
  | .ok (i, _) => some i
  | .error _ => none

end Sys2Proof
end

