-- ==== Sys2Proof/Config.lean ====
section
/-! DEFINITION. What is fixed for one machine: the sizes (00_scope.md R7), the quirk record (R8;
10_state.md R36), and the one free value, the random byte (42_register_alu.md R124). -/

namespace Sys2Proof

namespace Config

/-- `MEM_SIZE`: addresses 0x000 to 0xFFF (00_scope.md R7). -/
abbrev memSize : Nat := 4096

/-- The font set: 16 glyphs of 5 bytes (00_scope.md R7). -/
abbrev fontSize : Nat := 80

/-- The byte that the `n`-th execution of CXNN draws. FREE VALUE: it has no body, so nothing can be
proved about it but what holds for every byte (42_register_alu.md R124, decision D13; log entry 3). -/
opaque randomByte : Nat → Byte

end Config

/-- The quirk configuration `Q`: six booleans, set at construction, never written after
(00_scope.md R8; 10_state.md R36). -/
structure Quirks where
  /-- 8XY1, 8XY2, 8XY3 zero VF first. -/
  vfReset : Bool
  /-- FX55 and FX65 advance the index register by X + 1. -/
  memory : Bool
  /-- Sprites are clipped at the screen's edges; otherwise they wrap. -/
  clipping : Bool
  /-- 8XY6 and 8XYE shift VX in place; otherwise VX first takes VY. -/
  shifting : Bool
  /-- BNNN adds VX (X = bits 11 to 8); otherwise V0. -/
  jumping : Bool
  /-- FX0A completes at the release of the key; otherwise at key-down. -/
  release : Bool
  deriving DecidableEq, Repr

end Sys2Proof
end

