-- ==== Sys2Proof/Machine/Parameters.lean ====
section
/-! DEFINITION. The places and values that the spec's source leaves to the implementer: the two base
addresses, which the spec decides (D1, D3), and the values of the open parameters `Q` and `FONT`
(D12, D2) that `State.reset` takes. -/

namespace Sys2Proof.Machine

/-- `FONT_BASE` (10_state.md R23, the spec's decision D1). -/
def fontBase : Nat := 0x000

/-- `PROG_BASE`: where `load` puts a program and `pc` starts (00_scope.md R9, the spec's decision D3). -/
def progBase : Nat := 0x200

/-- The size of the program region, 0x200 to 0xFFF (20_memory.md R54). -/
def progSize : Nat := Config.memSize - progBase

/-- Glyphs 0 to 7 of the default font (10_state.md R24). PRESUMED (log entry 2). -/
def fontLow : List Byte :=
  [0xF0, 0x90, 0x90, 0x90, 0xF0] ++ [0x20, 0x60, 0x20, 0x20, 0x70] ++
  [0xF0, 0x10, 0xF0, 0x80, 0xF0] ++ [0xF0, 0x10, 0xF0, 0x10, 0xF0] ++
  [0x90, 0x90, 0xF0, 0x10, 0x10] ++ [0xF0, 0x80, 0xF0, 0x10, 0xF0] ++
  [0xF0, 0x80, 0xF0, 0x90, 0xF0] ++ [0xF0, 0x10, 0x20, 0x40, 0x40]

/-- Glyphs 8 to F of the default font (10_state.md R24). PRESUMED (log entry 2). -/
def fontHigh : List Byte :=
  [0xF0, 0x90, 0xF0, 0x90, 0xF0] ++ [0xF0, 0x90, 0xF0, 0x10, 0xF0] ++
  [0xF0, 0x90, 0xF0, 0x90, 0x90] ++ [0xE0, 0x90, 0xE0, 0x90, 0xE0] ++
  [0xF0, 0x80, 0x80, 0x80, 0xF0] ++ [0xE0, 0x90, 0x90, 0x90, 0xE0] ++
  [0xF0, 0x80, 0xF0, 0x80, 0xF0] ++ [0xF0, 0x80, 0xF0, 0x80, 0x80]

/-- The default `FONT`, 80 bytes, that `State.reset` takes (10_state.md R24). PRESUMED (log entry 2). -/
def defaultFont : List Byte := fontLow ++ fontHigh

/-- The quirks that `State.reset` takes. DESIGN CHOICE (log entry 1): the spec leaves all six open
(00_scope.md R8); all false is the convention of its test vectors. -/
def defaultQuirks : Quirks :=
  { vfReset := false, memory := false, clipping := false, shifting := false, jumping := false,
    release := false }

end Sys2Proof.Machine
end

