-- ==== Sys2Proof/Machine/Memory.lean ====
section
/-! DEFINITION. Main memory `MEM` (10_state.md R22, R23): the bytes that differ from the reset
contents, in one canonical form, with reading and writing single bytes and runs of bytes. The range
and font checks of `MemRead` and `MemWrite` stand in Machine/Ops.lean. -/

namespace Sys2Proof.Machine

/-- The listed cells; every other address reads as `Memory.unlisted`. -/
abbrev Memory := List Host.Cell

/-- The address lies in the font region, 0x000 to 0x04F (20_memory.md R51). -/
def inFontRegion (a : Nat) : Bool := fontBase ≤ a && a < fontBase + Config.fontSize

/-- What an unlisted address reads as: the reset contents, `FONT` in the font region and 0x00
elsewhere (10_state.md R23). The font bytes are the default table, PRESUMED (log entry 2). -/
def Memory.unlisted (a : Nat) : Byte :=
  if inFontRegion a then defaultFont.getD (a - fontBase) 0 else 0

/-- `MEM[a]`. -/
def Memory.read : Memory → Nat → Byte
  | [], a => Memory.unlisted a
  | (c, b) :: m, a => if a = c then b else Memory.read m a

/-- `MEM[a] <- b`, keeping the canonical form. -/
def Memory.write : Memory → Nat → Byte → Memory
  | [], a, b => if b = Memory.unlisted a then [] else [(a, b)]
  | (c, d) :: m, a, b =>
    if a < c then
      if b = Memory.unlisted a then (c, d) :: m else (a, b) :: (c, d) :: m
    else if a = c then
      if b = Memory.unlisted a then m else (a, b) :: m
    else (c, d) :: Memory.write m a b

/-- `MEM[a], MEM[a+1], ..., MEM[a+n-1]`, in that order (20_memory.md R57). -/
def Memory.readBytes (m : Memory) : Nat → Nat → List Byte
  | _, 0 => []
  | a, n + 1 => Memory.read m a :: Memory.readBytes m (a + 1) n

/-- `MEM[a+i] <- v[i]` (20_memory.md R58). -/
def Memory.writeBytes (m : Memory) : Nat → List Byte → Memory
  | _, [] => m
  | a, b :: bs => Memory.writeBytes (Memory.write m a b) (a + 1) bs

/-- The cells lie at strictly rising addresses from `lo` up, below 4096, and none equals what its
address reads as unlisted. -/
def Memory.wfFrom : Nat → Memory → Bool
  | _, [] => true
  | lo, (c, b) :: m =>
    lo ≤ c && c < Config.memSize && b != Memory.unlisted c && Memory.wfFrom (c + 1) m

/-- The canonical form: equal memories are equal lists. -/
def Memory.wf (m : Memory) : Bool := Memory.wfFrom 0 m

end Sys2Proof.Machine
end

