-- ==== Sys2Proof/Machine/State.lean ====
section
/-! DEFINITION. The state of the core (10_state.md R20), its reset value (R37), and the reasons a step
can stop. -/

namespace Sys2Proof.Machine

/-- The state of one key, as `set_key` last reported it (10_state.md R34). -/
inductive KeyState where
  | up
  | down
  deriving DecidableEq, Repr

/-- The framebuffer: 32 rows of 64 one-bit pixels; row `y`, column `x` is the spec's
`DISP[y*64 + x]` (10_state.md R33). -/
abbrev Screen := Vector (Vector Bool 64) 32

/-- The state of the core (10_state.md R20), with the quirks it was constructed with (R36) and the
model's own count of random draws. -/
structure State where
  /-- `MEM` (10_state.md R22). -/
  mem : Memory
  /-- `V0` to `VF` (10_state.md R25). -/
  v : Vector Byte 16
  /-- `I`, the index register (10_state.md R27). -/
  index : Word
  /-- `pc` (10_state.md R30): between steps the address of the next instruction; while a handler runs,
  the address of the one after the instruction executing. -/
  pc : Word
  /-- `STACK` (10_state.md R29). -/
  stack : Vector Word 16
  /-- `SP`, the number of entries in use, 0 to 16 (10_state.md R29). -/
  sp : Fin 17
  /-- `DISP` (10_state.md R33). -/
  disp : Screen
  /-- `DT`, the delay timer (10_state.md R28). -/
  dt : Byte
  /-- `ST`, the sound timer (10_state.md R28). -/
  st : Byte
  /-- `KEY` (10_state.md R34). -/
  key : Vector KeyState 16
  /-- `LATCH`, the pressed-key latch of FX0A (10_state.md R35). -/
  latch : Option Key
  /-- `Q`, fixed at construction (10_state.md R36; log entry 1). -/
  quirks : Quirks
  /-- The model's own field, not the spec's: how many bytes CXNN has drawn. No operation sets it back,
  `reset` included (60_exceptions.md R190; log entry 3). -/
  draws : Nat
  deriving DecidableEq, Repr

/-- The just-constructed state with quirks `q` over the memory `m` (10_state.md R37), where the random
source, which is outside the architectural state (60_exceptions.md R190), has given `n` bytes already. -/
def State.initial (q : Quirks) (m : Memory) (n : Nat) : State :=
  { mem := m
    v := Vector.replicate 16 0
    index := 0
    pc := BitVec.ofNat 16 progBase
    stack := Vector.replicate 16 0
    sp := 0
    disp := Vector.replicate 32 (Vector.replicate 64 false)
    dt := 0
    st := 0
    key := Vector.replicate 16 .up
    latch := none
    quirks := q
    draws := n }

/-- The state right after reset (10_state.md R37): memory lists nothing, so it reads as the font and
zeroes. The quirks and the count of draws are the model's choice (log entries 1, 3), the font bytes
presumed (log entry 2). -/
def State.reset : State := State.initial defaultQuirks [] 0

/-- The faults of 60_exceptions.md R170. A fault is the outcome that `step` reports to the host; none is
taken inside the machine (R181). Each carries what the spec records of it and, as `left`, the state that
the fault leaves (R171 to R176). The model's run ends there (R182; log entry 4). -/
inductive Fault where
  /-- Code 1, raised by decode of a word outside the opcode map (R171). Safe: the machine reports it. -/
  | undefinedInstruction (op : Word) (left : State)
  /-- Code 2, raised by the fetch, DXYN, FX33, FX55 and FX65 for an access that passes 0xFFF; `addr` is
  the first address of the access above 0xFFF (R172). Safe: the spec decides a fatal error (D5). -/
  | addressOutOfRange (addr : Nat) (left : State)
  /-- Code 3, raised by 2NNN with all 16 entries in use (R173). Safe: the spec decides it (D7). -/
  | stackOverflow (left : State)
  /-- Code 4, raised by 00EE with no entry in use (R174). Safe: the spec decides it (D7). -/
  | stackUnderflow (left : State)
  /-- Code 5, raised by FX33 and FX55 for a store that meets the font region; `addr` is the lowest
  address of the store in it (R175). Safe: the spec decides it (D8). -/
  | fontWrite (addr : Nat) (left : State)
  /-- Code 6, raised by EX9E and EXA1 when VX holds `k` above 15 (R176). Safe: the spec decides it (D9). -/
  | keyIndexOutOfRange (k : Byte) (left : State)
  deriving DecidableEq, Repr

/-- Refusals: no instruction of this model is refused. -/
inductive Refusal where
  /-- An instruction without a meaning in the model, rejected by name in `exec`. None is, so nothing
  raises it. Safe. -/
  | notModelled (mnemonic : String)
  deriving DecidableEq, Repr

/-- The outcome of a handler or of a step (00_scope.md R15). -/
abbrev Outcome := Host.Outcome State Fault Refusal

end Sys2Proof.Machine
end

