-- ==== Sys2Proof/Machine/Ops.lean ====
section
/-! DEFINITION. The named operations over the state: register access, program counter, call stack,
display pixels, the checked memory primitives `MemRead` and `MemWrite`, instruction fetch, and raising a
fault. -/

namespace Sys2Proof.Machine

/-! ### Registers -/

/-- `V[r]` (10_state.md R25). -/
def State.getV (s : State) (r : Reg) : Byte := s.v[r]

/-- `V[r] <- b` (10_state.md R25). -/
def State.setV (s : State) (r : Reg) (b : Byte) : State := { s with v := s.v.set r b }

/-- All sixteen registers at once. -/
def State.setRegisters (s : State) (w : Vector Byte 16) : State := { s with v := w }

/-- `I <- w` (10_state.md R27). -/
def State.setIndex (s : State) (w : Word) : State := { s with index := w }

/-- `DT <- b` (10_state.md R28). -/
def State.setDt (s : State) (b : Byte) : State := { s with dt := b }

/-- `ST <- b` (10_state.md R28). -/
def State.setSt (s : State) (b : Byte) : State := { s with st := b }

/-- `LATCH <- l` (10_state.md R35). -/
def State.setLatch (s : State) (l : Option Key) : State := { s with latch := l }

/-- `KEY[k]` (10_state.md R34). -/
def State.getKey (s : State) (k : Key) : KeyState := s.key[k]

/-- `KEY[k] <- u` (10_state.md R34). -/
def State.setKeyState (s : State) (k : Key) (u : KeyState) : State := { s with key := s.key.set k u }

/-- `MEM[a]`, one byte. -/
def State.readByte (s : State) (a : Nat) : Byte := s.mem.read a

/-- `MEM` as a whole. -/
def State.setMem (s : State) (m : Memory) : State := { s with mem := m }

/-- `STACK[k] <- w` (10_state.md R29). -/
def State.setStackEntry (s : State) (k : Fin 16) (w : Word) : State :=
  { s with stack := s.stack.set k w }

/-- `SP <- n` (10_state.md R29). -/
def State.setSp (s : State) (n : Fin 17) : State := { s with sp := n }

/-- The next random byte has been drawn (log entry 3). -/
def State.nextDraw (s : State) : State := { s with draws := s.draws + 1 }

/-! ### Program counter -/

/-- `pc <- target` (00_scope.md R12). -/
def State.setPc (s : State) (w : Word) : State := { s with pc := w }

/-- The cycle's advance, and a skip: `pc <- pc + 2` (40_engine_cycle.md R92). -/
def State.advance (s : State) : State := s.setPc (s.pc + 2)

/-- FX0A's rewind: `pc <- pc - 2` (45_keypad.md R152). -/
def State.rewind (s : State) : State := s.setPc (s.pc - 2)

/-- The skip instructions: skip the next two bytes if the condition holds (41_control_flow.md R103). -/
def skipIf (c : Bool) (s : State) : State := if c then s.advance else s

/-! ### Faults -/

/-- `raise`: the handler or step ends at once with this fault (00_scope.md R14). A fault enters no
handler inside the machine: no vector, no saved pc, no mode (60_exceptions.md R181). -/
def raise (f : Fault) : Outcome := .fault f

/-- Go on with the value, or raise the fault. -/
def orRaise {α : Type} (r : Except Fault α) (k : α → Outcome) : Outcome :=
  match r with
  | .ok a => k a
  | .error f => raise f

/-- The numeric code of a fault (60_exceptions.md R170). -/
def Fault.code : Fault → Nat
  | .undefinedInstruction _ _ => 1
  | .addressOutOfRange _ _ => 2
  | .stackOverflow _ => 3
  | .stackUnderflow _ => 4
  | .fontWrite _ _ => 5
  | .keyIndexOutOfRange _ _ => 6

/-- The state that a fault leaves (60_exceptions.md R171 to R176). There is no return from a fault: the
host may step again, and the core then runs from this state (R182). -/
def Fault.left : Fault → State
  | .undefinedInstruction _ s => s
  | .addressOutOfRange _ s => s
  | .stackOverflow s => s
  | .stackUnderflow s => s
  | .fontWrite _ s => s
  | .keyIndexOutOfRange _ s => s

/-! ### Memory -/

/-- `MemRead(addr, n)` for n >= 1 (20_memory.md R57): the whole range is checked first, and the address
is an unbounded integer. -/
def memRead (s : State) (addr n : Nat) : Except Fault (List Byte) :=
  if addr + n - 1 > 0xFFF then .error (.addressOutOfRange (max addr 0x1000) s)
  else .ok (s.mem.readBytes addr n)

/-- The range `addr .. addr+n-1` meets the font region (20_memory.md R58). -/
def meetsFont (addr n : Nat) : Bool := addr < fontBase + Config.fontSize && fontBase < addr + n

/-- `MemWrite(addr, n, v)` for the n >= 1 bytes `v` (20_memory.md R58): range first, font region
second, and only then the first byte is stored. -/
def memWrite (s : State) (addr : Nat) (v : List Byte) : Except Fault State :=
  if addr + v.length - 1 > 0xFFF then .error (.addressOutOfRange (max addr 0x1000) s)
  else if meetsFont addr v.length then .error (.fontWrite (max addr fontBase) s)
  else .ok (s.setMem (s.mem.writeBytes addr v))

/-- Fetch: the two bytes at `pc`, big-endian; no alignment check (40_engine_cycle.md R91). -/
def fetch (s : State) : Except Fault Word :=
  match memRead s s.pc.toNat 2 with
  | .ok bs => .ok (wordOfBytes (bs.getD 0 0) (bs.getD 1 0))
  | .error f => .error f

/-! ### Call stack -/

/-- Push the advanced `pc` (41_control_flow.md R102); full at 16 entries. -/
def pushReturn (s : State) : Except Fault State :=
  if h : s.sp.val < 16 then
    .ok ((s.setStackEntry ⟨s.sp.val, h⟩ s.pc).setSp ⟨s.sp.val + 1, by omega⟩)
  else .error (.stackOverflow s)

/-- Pop into `pc`; the popped slot keeps its content (41_control_flow.md R100; 10_state.md R29). -/
def popReturn (s : State) : Except Fault State :=
  if h : s.sp.val = 0 then .error (.stackUnderflow s)
  else .ok ((s.setPc s.stack[s.sp.val - 1]).setSp ⟨s.sp.val - 1, by omega⟩)

/-! ### Display -/

/-- Pixel (x, y) of a screen, coordinates taken modulo the grid (10_state.md R33). -/
def Screen.pixel (d : Screen) (x y : Nat) : Bool :=
  (d[y % 32]'(Nat.mod_lt _ (by decide)))[x % 64]'(Nat.mod_lt _ (by decide))

/-- XOR pixel (x, y) with 1 (44_display.md R141). -/
def Screen.toggle (d : Screen) (x y : Nat) : Screen :=
  d.set (y % 32)
    ((d[y % 32]'(Nat.mod_lt _ (by decide))).set (x % 64) (!d.pixel x y) (Nat.mod_lt _ (by decide)))
    (Nat.mod_lt _ (by decide))

/-- All 2048 pixels 0. -/
def Screen.blank : Screen := Vector.replicate 32 (Vector.replicate 64 false)

/-- Pixel (x, y) of `DISP`, as the host reads it (60_exceptions.md R188). -/
def State.pixel (s : State) (x y : Nat) : Bool := s.disp.pixel x y

/-- `DISP <- d`. -/
def State.setDisp (s : State) (d : Screen) : State := { s with disp := d }

end Sys2Proof.Machine
end

