-- ==== Sys2Proof/Machine/Operands.lean ====
section
/-! DEFINITION. The operand forms: which register or value an instruction takes, with the quirks that
choose among them. -/

namespace Sys2Proof.Machine

/-- A 12-bit address in a 16-bit register: zero-extended (30_encoding.md R72). -/
def zeroExtend (nnn : Addr) : Word := nnn.setWidth 16

/-- BNNN's register: X with `Q.jumping`, else V0 (41_control_flow.md R107). -/
def offsetRegister (q : Quirks) (x : Reg) : Reg := if q.jumping then x else 0

/-- `if not Q.shifting: V[X] <- V[Y]` (42_register_alu.md R118, R120). -/
def loadShifted (x y : Reg) (s : State) : State :=
  if s.quirks.shifting then s else s.setV x (s.getV y)

/-- The key that VX names; above 15 it names none (45_keypad.md R150, R151). -/
def keyOperand (x : Reg) (s : State) : Except Fault Key :=
  if h : (s.getV x).toNat < 16 then .ok ⟨(s.getV x).toNat, h⟩
  else .error (.keyIndexOutOfRange (s.getV x) s)

/-- The least key that is down (45_keypad.md R152). -/
def lowestKeyDown (s : State) : Option Key :=
  (List.finRange 16).find? (fun k => s.getKey k == .down)

/-- A key number as a byte. -/
def keyByte (k : Key) : Byte := BitVec.ofNat 8 k.val

/-- The address of the glyph for the low nibble of `b` (43_index_memory.md R132). -/
def glyphAddress (b : Byte) : Word := BitVec.ofNat 16 (fontBase + 5 * (b &&& 0x0F).toNat)

/-- Hundreds, tens, ones (43_index_memory.md R134). -/
def decimalDigits (b : Byte) : List Byte :=
  [BitVec.ofNat 8 (b.toNat / 100), BitVec.ofNat 8 (b.toNat / 10 % 10), BitVec.ofNat 8 (b.toNat % 10)]

/-- `V[0], V[1], ..., V[X]` (43_index_memory.md R135). -/
def registersUpTo (x : Reg) (s : State) : List Byte := s.v.toList.take (x.val + 1)

/-- `V[i] <- b[i]` for each of the bytes `b`, from V0 up (43_index_memory.md R136). -/
def loadRegisters (b : List Byte) (s : State) : State :=
  s.setRegisters (Vector.ofFn (fun r : Reg => (b[r.val]?).getD (s.getV r)))

/-- `if Q.memory: I <- (I + X + 1) mod 65536` (43_index_memory.md R135, R136). -/
def advanceIndexIfQuirk (x : Reg) (s : State) : State :=
  if s.quirks.memory then s.setIndex (s.index + BitVec.ofNat 16 (x.val + 1)) else s

/-- The `n` sprite bytes of DXYN; with n = 0 nothing is read (44_display.md R141, R142). -/
def spriteBytes (n : Nat) (s : State) : Except Fault (List Byte) :=
  if n = 0 then .ok [] else memRead s s.index.toNat n

end Sys2Proof.Machine
end

