-- ==== Sys2Proof/Machine/ControlFlow.lean ====
section
/-! DEFINITION. 00EE, 1NNN, 2NNN, 3XNN, 4XNN, 5XY0, 9XY0, BNNN (41_control_flow.md). While a handler
runs, `pc` already holds the address of the next instruction (40_engine_cycle.md R92). -/

namespace Sys2Proof.Machine

/-- 00EE `RET` (41_control_flow.md R100). -/
def execRet (s : State) : Outcome := orRaise (popReturn s) .next

/-- 1NNN `JP NNN` (41_control_flow.md R101). -/
def execJp (nnn : Addr) (s : State) : Outcome := .next (s.setPc (zeroExtend nnn))

/-- 2NNN `CALL NNN` (41_control_flow.md R102). -/
def execCall (nnn : Addr) (s : State) : Outcome :=
  orRaise (pushReturn s) (fun t => .next (t.setPc (zeroExtend nnn)))

/-- 3XNN `SE VX, NN` (41_control_flow.md R103). -/
def execSeImm (x : Reg) (nn : Byte) (s : State) : Outcome := .next (skipIf (s.getV x == nn) s)

/-- 4XNN `SNE VX, NN` (41_control_flow.md R104). -/
def execSneImm (x : Reg) (nn : Byte) (s : State) : Outcome := .next (skipIf (s.getV x != nn) s)

/-- 5XY0 `SE VX, VY` (41_control_flow.md R105). -/
def execSeReg (x y : Reg) (s : State) : Outcome := .next (skipIf (s.getV x == s.getV y) s)

/-- 9XY0 `SNE VX, VY` (41_control_flow.md R106). -/
def execSneReg (x y : Reg) (s : State) : Outcome := .next (skipIf (s.getV x != s.getV y) s)

/-- BNNN `JP V0, NNN` (41_control_flow.md R107): the sum is not masked to 12 bits. -/
def execJpV0 (nnn : Addr) (x : Reg) (s : State) : Outcome :=
  .next (s.setPc (zeroExtend nnn + (s.getV (offsetRegister s.quirks x)).setWidth 16))

end Sys2Proof.Machine
end

