-- ==== Sys2Proof/Machine/Flags.lean ====
section
/-! DEFINITION. What VF takes as carry, borrow, shifted-out bit and collision (10_state.md R26), and the
`vf_reset` quirk. -/

namespace Sys2Proof.Machine

/-- A condition as the byte 1 or 0. -/
def flagByte (c : Bool) : Byte := if c then 1 else 0

/-- 8XY4: the 8-bit addition overflowed (42_register_alu.md R116). -/
def carryFlag (a b : Byte) : Byte := flagByte (a.toNat + b.toNat > 255)

/-- 8XY5 and 8XY7: `a - b` needs no borrow (42_register_alu.md R117, R119). -/
def noBorrowFlag (a b : Byte) : Byte := flagByte (b.toNat ≤ a.toNat)

/-- 8XY6: bit 0 of the value that is shifted (42_register_alu.md R118). -/
def lowBitFlag (a : Byte) : Byte := a &&& 1

/-- 8XYE: bit 7 of the value that is shifted (42_register_alu.md R120). -/
def highBitFlag (a : Byte) : Byte := (a >>> 7) &&& 1

/-- `if Q.vf_reset: V[F] <- 0` (42_register_alu.md R113 to R115). -/
def resetFlagIfQuirk (s : State) : State := if s.quirks.vfReset then s.setV VF 0 else s

/-- DXYN: VF becomes 1 if some pixel went from set to unset; else it stays as it is
(44_display.md R141). -/
def raiseCollision (hit : Bool) (s : State) : State := if hit then s.setV VF 1 else s

end Sys2Proof.Machine
end

