-- ==== Sys2Proof/Machine/Display.lean ====
section
/-! DEFINITION. 00E0 and DXYN: the XOR-sprite rasterizer (44_display.md), as the loops of R141. -/

namespace Sys2Proof.Machine

/-- A screen being drawn on, and whether some pixel went from set to unset. -/
structure Raster where
  disp : Screen
  hit : Bool
  deriving DecidableEq, Repr

/-- One sprite bit at column `x`, row `y`, before clipping or wrapping (44_display.md R141). -/
def drawBit (clip : Bool) (x y : Nat) (bit : Bool) (r : Raster) : Raster :=
  if clip && (decide (64 ≤ x) || decide (32 ≤ y)) then r
  else if bit then { disp := r.disp.toggle x y, hit := r.hit || r.disp.pixel x y }
  else r

/-- The columns `c` of one sprite row; the most significant bit is column 0 (44_display.md R141). -/
def drawColumns (clip : Bool) (x0 y : Nat) (row : Byte) : List Nat → Raster → Raster
  | [], r => r
  | c :: cs, r =>
    drawColumns clip x0 y row cs (drawBit clip (x0 + c) y (row.getLsbD (7 - c)) r)

/-- The sprite's rows, the first at row `y` (44_display.md R141). -/
def drawRows (clip : Bool) (x0 : Nat) : Nat → List Byte → Raster → Raster
  | _, [], r => r
  | y, row :: rows, r =>
    drawRows clip x0 (y + 1) rows (drawColumns clip x0 y row [0, 1, 2, 3, 4, 5, 6, 7] r)

/-- Draw the sprite with its first bit at (x0, y0): VF is zeroed before, and raised by a collision
(44_display.md R141). -/
def drawSprite (x0 y0 : Nat) (sprite : List Byte) (s : State) : State :=
  let r := drawRows s.quirks.clipping x0 y0 sprite { disp := s.disp, hit := false }
  raiseCollision r.hit ((s.setV VF 0).setDisp r.disp)

/-- 00E0 `CLS` (44_display.md R140). -/
def execCls (s : State) : Outcome := .next (s.setDisp Screen.blank)

/-- DXYN `DRW VX, VY, N` (44_display.md R141, R142): coordinates are read first, then all N bytes are
checked and read, then VF is zeroed and the pixels drawn. -/
def execDrw (x y : Reg) (n : Fin 16) (s : State) : Outcome :=
  orRaise (spriteBytes n.val s) (fun sprite =>
    .next (drawSprite ((s.getV x).toNat % 64) ((s.getV y).toNat % 32) sprite s))

end Sys2Proof.Machine
end

