-- ==== Sys2Proof/Machine/IndexMemory.lean ====
section
/-! DEFINITION. ANNN, FX1E, FX29, FX33, FX55, FX65 (43_index_memory.md). The address `I + offset` is an
unbounded integer, checked over the whole range first (R133). -/

namespace Sys2Proof.Machine

/-- ANNN `LD I, NNN` (43_index_memory.md R130). -/
def execLdI (nnn : Addr) (s : State) : Outcome := .next (s.setIndex (zeroExtend nnn))

/-- FX1E `ADD I, VX` (43_index_memory.md R131): 16 bits, no flag. -/
def execAddI (x : Reg) (s : State) : Outcome :=
  .next (s.setIndex (s.index + (s.getV x).setWidth 16))

/-- FX29 `LD F, VX` (43_index_memory.md R132). -/
def execLdF (x : Reg) (s : State) : Outcome := .next (s.setIndex (glyphAddress (s.getV x)))

/-- FX33 `LD B, VX` (43_index_memory.md R134). -/
def execLdB (x : Reg) (s : State) : Outcome :=
  orRaise (memWrite s s.index.toNat (decimalDigits (s.getV x))) .next

/-- FX55 `LD [I], VX` (43_index_memory.md R135). -/
def execLdMemVx (x : Reg) (s : State) : Outcome :=
  orRaise (memWrite s s.index.toNat (registersUpTo x s)) (fun t => .next (advanceIndexIfQuirk x t))

/-- FX65 `LD VX, [I]` (43_index_memory.md R136). -/
def execLdVxMem (x : Reg) (s : State) : Outcome :=
  orRaise (memRead s s.index.toNat (x.val + 1))
    (fun b => .next (advanceIndexIfQuirk x (loadRegisters b s)))

end Sys2Proof.Machine
end

