-- ==== Sys2Proof/Machine/Keypad.lean ====
section
/-! DEFINITION. EX9E, EXA1, FX0A (45_keypad.md). -/

namespace Sys2Proof.Machine

/-- EX9E `SKP VX` (45_keypad.md R150). -/
def execSkp (x : Reg) (s : State) : Outcome :=
  orRaise (keyOperand x s) (fun k => .next (skipIf (s.getKey k == .down) s))

/-- EXA1 `SKNP VX` (45_keypad.md R151). -/
def execSknp (x : Reg) (s : State) : Outcome :=
  orRaise (keyOperand x s) (fun k => .next (skipIf (s.getKey k == .up) s))

/-- FX0A with no key latched, or without `Q.release`: look for the lowest key down (45_keypad.md
R152). -/
def scanForKey (x : Reg) (s : State) : State :=
  match lowestKeyDown s with
  | none => s.rewind
  | some k =>
    if s.quirks.release then ((s.setV x (keyByte k)).setLatch (some k)).rewind
    else s.setV x (keyByte k)

/-- FX0A with `Q.release` and key `j` latched: complete when it is up (45_keypad.md R152). -/
def awaitRelease (j : Key) (s : State) : State :=
  if s.getKey j = .up then s.setLatch none else s.rewind

/-- FX0A `LD VX, K` (45_keypad.md R152, R153): one look at the keys; not completing is rewinding `pc`. -/
def execLdVxK (x : Reg) (s : State) : Outcome :=
  match s.latch with
  | some j => .next (if s.quirks.release then awaitRelease j s else scanForKey x s)
  | none => .next (scanForKey x s)

end Sys2Proof.Machine
end

