-- ==== Sys2Proof/Machine/RegisterAlu.lean ====
section
/-! DEFINITION. 6XNN, 7XNN, 8XY0 to 8XY7, 8XYE, CXNN (42_register_alu.md). The statements of each rule
run in the order written (R122; 00_scope.md R12), which shows when X or Y is VF. -/

namespace Sys2Proof.Machine

/-- 6XNN `LD VX, NN` (42_register_alu.md R110). -/
def execLdImm (x : Reg) (nn : Byte) (s : State) : Outcome := .next (s.setV x nn)

/-- 7XNN `ADD VX, NN` (42_register_alu.md R111): no flag. -/
def execAddImm (x : Reg) (nn : Byte) (s : State) : Outcome := .next (s.setV x (s.getV x + nn))

/-- 8XY0 `LD VX, VY` (42_register_alu.md R112). -/
def execLdReg (x y : Reg) (s : State) : Outcome := .next (s.setV x (s.getV y))

/-- The shape of 8XY1, 8XY2, 8XY3: VF is zeroed first if the quirk says so, then VX takes the result
(42_register_alu.md R113 to R115). -/
def logicOp (f : Byte → Byte → Byte) (x y : Reg) (s : State) : State :=
  let t := resetFlagIfQuirk s
  t.setV x (f (t.getV x) (t.getV y))

/-- 8XY1 `OR VX, VY` (42_register_alu.md R113). -/
def execOrReg (x y : Reg) (s : State) : Outcome := .next (logicOp (· ||| ·) x y s)

/-- 8XY2 `AND VX, VY` (42_register_alu.md R114). -/
def execAndReg (x y : Reg) (s : State) : Outcome := .next (logicOp (· &&& ·) x y s)

/-- 8XY3 `XOR VX, VY` (42_register_alu.md R115). -/
def execXorReg (x y : Reg) (s : State) : Outcome := .next (logicOp (· ^^^ ·) x y s)

/-- The shape of 8XY4, 8XY5, 8XY7: the result is written first and VF second (42_register_alu.md
R122). -/
def resultThenFlag (x : Reg) (result flag : Byte) (s : State) : State := (s.setV x result).setV VF flag

/-- 8XY4 `ADD VX, VY` (42_register_alu.md R116). -/
def execAddReg (x y : Reg) (s : State) : Outcome :=
  .next (resultThenFlag x (s.getV x + s.getV y) (carryFlag (s.getV x) (s.getV y)) s)

/-- 8XY5 `SUB VX, VY` (42_register_alu.md R117). -/
def execSubReg (x y : Reg) (s : State) : Outcome :=
  .next (resultThenFlag x (s.getV x - s.getV y) (noBorrowFlag (s.getV x) (s.getV y)) s)

/-- 8XY7 `SUBN VX, VY` (42_register_alu.md R119). -/
def execSubn (x y : Reg) (s : State) : Outcome :=
  .next (resultThenFlag x (s.getV y - s.getV x) (noBorrowFlag (s.getV y) (s.getV x)) s)

/-- The shape of 8XY6, 8XYE: VX first takes VY unless `Q.shifting`, then VF takes the bit shifted out,
then VX is shifted, each statement reading what the one before left (42_register_alu.md R118, R120). -/
def flagThenShift (flag shift : Byte → Byte) (x y : Reg) (s : State) : State :=
  let t := loadShifted x y s
  let u := t.setV VF (flag (t.getV x))
  u.setV x (shift (u.getV x))

/-- 8XY6 `SHR VX, VY` (42_register_alu.md R118): a logical shift. -/
def execShr (x y : Reg) (s : State) : Outcome := .next (flagThenShift lowBitFlag (· >>> 1) x y s)

/-- 8XYE `SHL VX, VY` (42_register_alu.md R120). -/
def execShl (x y : Reg) (s : State) : Outcome := .next (flagThenShift highBitFlag (· <<< 1) x y s)

/-- CXNN's effect for the random byte `rnd` (42_register_alu.md R124). -/
def randomInto (rnd : Byte) (x : Reg) (nn : Byte) (s : State) : State := s.setV x (rnd &&& nn)

/-- CXNN `RND VX, NN` (42_register_alu.md R124): `rnd` is a free value, a fresh one at each execution
(log entry 3). -/
def execRnd (x : Reg) (nn : Byte) (s : State) : Outcome :=
  .next (randomInto (Config.randomByte s.draws) x nn s).nextDraw

end Sys2Proof.Machine
end

