-- ==== Sys2Proof/Machine/Timers.lean ====
section
/-! DEFINITION. FX07, FX15, FX18 (46_timers.md). The tick stands in Machine/HostInterface.lean. -/

namespace Sys2Proof.Machine

/-- FX07 `LD VX, DT` (46_timers.md R160). -/
def execLdVxDt (x : Reg) (s : State) : Outcome := .next (s.setV x s.dt)

/-- FX15 `LD DT, VX` (46_timers.md R161). -/
def execLdDtVx (x : Reg) (s : State) : Outcome := .next (s.setDt (s.getV x))

/-- FX18 `LD ST, VX` (46_timers.md R162). -/
def execLdStVx (x : Reg) (s : State) : Outcome := .next (s.setSt (s.getV x))

end Sys2Proof.Machine
end

