-- ==== Sys2Proof/Machine/Placement.lean ====
section
/-! DEFINITION. Placing one instruction where the next step fetches it: what a host's `load` does to
memory for one word, at the current `pc` (60_exceptions.md R186; log entry 6). -/

namespace Sys2Proof.Machine

/-- `s`, with `pc` at the program base if it stands where no word can be fetched. -/
def atFetchablePc (s : State) : State :=
  if s.pc.toNat ≤ 0xFFE then s else s.setPc (BitVec.ofNat 16 progBase)

/-- The word's two bytes stored at `pc`, high byte first. -/
def placeWord (op : Word) (s : State) : State :=
  let t := atFetchablePc s
  t.setMem (t.mem.writeBytes t.pc.toNat (bytesOfWord op))

end Sys2Proof.Machine
end

