-- ==== Sys2Proof/Machine/Step.lean ====
section
/-! DEFINITION. The instruction cycle: fetch, advance, decode, execute one handler (40_engine_cycle.md
R90 to R95). -/

namespace Sys2Proof.Machine

/-- Decode and execute `op`, with `pc` already advanced (40_engine_cycle.md R93 to R95). -/
def runWord (op : Word) (s : State) : Outcome :=
  match decode op with
  | .ok i => exec i s
  | .error _ => raise (.undefinedInstruction op s)

/-- One instruction cycle (40_engine_cycle.md R90). The draw `rnd` is the free value that CXNN takes
(log entry 3). -/
def step (s : State) : Host.Outcome State Fault Refusal :=
  orRaise (fetch s) (fun op => runWord op s.advance)

/-- `s` with the instruction word `w` stored where `step` fetches its next instruction. -/
def State.withFetchWord (s : State) (nbits w : Nat) : State :=
  placeWord (BitVec.ofNat 16 (w % 2 ^ nbits)) s

end Sys2Proof.Machine
end

