-- ==== Sys2Proof/Machine/HostInterface.lean ====
section
/-! DEFINITION. The host's side of the interface: the five operations and the outputs (60_exceptions.md
R183 to R190), construction (70_reset_and_hazards.md R201), and the states that operations reach. -/

namespace Sys2Proof.Machine

/-- The engine as constructed with quirks `q` and the 80 bytes of `FONT` (70_reset_and_hazards.md R201;
10_state.md R23), where the random source has given `n` bytes already (60_exceptions.md R190). -/
def State.construct (q : Quirks) (font : Vector Byte 80) (n : Nat) : State :=
  State.initial q (Memory.writeBytes [] fontBase font.toList) n

/-- `reset` (70_reset_and_hazards.md R200): the constructed state again, quirks kept. The random
bytes come from outside the state (60_exceptions.md R190), so the draws go on where they were. -/
def hostReset (font : Vector Byte 80) (s : State) : State := State.construct s.quirks font s.draws

/-- `tick_timers` on one timer: decrement, never below 0 (46_timers.md R163). -/
def tickDown (b : Byte) : Byte := if b = 0 then 0 else b - 1

/-- `tick_timers` (46_timers.md R163). -/
def tickTimers (s : State) : State := (s.setDt (tickDown s.dt)).setSt (tickDown s.st)

/-- `set_key(k, u)` (60_exceptions.md R185). -/
def setKey (k : Key) (u : KeyState) (s : State) : State := s.setKeyState k u

/-- What `load` answers (60_exceptions.md R186). -/
inductive LoadResult where
  | accepted (s : State)
  | refused (s : State)
  deriving DecidableEq, Repr

/-- The state after a `load`, accepted or refused. -/
def LoadResult.state : LoadResult → State
  | .accepted s => s
  | .refused s => s

/-- `load(bytes)`: verbatim to 0x200 upward; more than 3584 bytes are refused whole (60_exceptions.md
R186). -/
def load (bytes : List Byte) (s : State) : LoadResult :=
  if bytes.length > progSize then .refused s
  else .accepted (s.setMem (s.mem.writeBytes progBase bytes))

/-- The framebuffer output: pixel `DISP[k]`, row-major (60_exceptions.md R188; 10_state.md R33). -/
def framebuffer (s : State) (k : Fin 2048) : Bool := s.pixel (k.val % 64) (k.val / 64)

/-- The timer outputs `DT` and `ST` (60_exceptions.md R189). -/
def timerOutputs (s : State) : Byte × Byte := (s.dt, s.st)

/-- The host's operations (60_exceptions.md R183). -/
inductive HostOp where
  | step
  | tickTimers
  | setKey (k : Key) (u : KeyState)
  | load (bytes : List Byte)
  | reset
  deriving DecidableEq, Repr

/-- The state a step leaves, whether it succeeds or faults (00_scope.md R15; 60_exceptions.md R182). -/
def stateAfterStep (s : State) : State :=
  match step s with
  | .next t => t
  | .fault f => f.left
  | .refused _ => s

/-- The state after one operation, on a core constructed with the font `font`. -/
def HostOp.apply (font : Vector Byte 80) : HostOp → State → State
  | .step, s => stateAfterStep s
  | .tickTimers, s => Sys2Proof.Machine.tickTimers s
  | .setKey k u, s => Sys2Proof.Machine.setKey k u s
  | .load bytes, s => (Sys2Proof.Machine.load bytes s).state
  | .reset, s => hostReset font s

/-- The state after the operations `ops`, in their order: operations never overlap (20_memory.md R62). -/
def HostOp.applyAll (font : Vector Byte 80) : List HostOp → State → State
  | [], s => s
  | op :: ops, s => HostOp.applyAll font ops (op.apply font s)

end Sys2Proof.Machine
end

