-- ==== Sys2Proof/Safety.lean ====
section
/-! DEFINITION. The terms in which claims are stated: the parts of the state and what leaves them
unchanged, the invariant of every step, completion and safe runs. -/

namespace Sys2Proof.Machine

/-- The parts of the state, down to one register, one byte, one pixel. -/
inductive Part where
  /-- One byte of memory. -/
  | mem (a : Nat)
  /-- One general register. -/
  | v (r : Reg)
  | index
  | pc
  /-- One entry of the call stack. -/
  | stack (k : Fin 16)
  | sp
  /-- Pixel (x, y). -/
  | pixel (x : Fin 64) (y : Fin 32)
  | dt
  | st
  /-- The state of one key. -/
  | key (k : Key)
  | latch
  | quirks
  /-- The model's own count of random draws. -/
  | draws
  deriving DecidableEq, Repr

/-- The part has the same content in both states; memory by reading the byte. -/
def Part.same (s t : State) : Part → Prop
  | .mem a => t.readByte a = s.readByte a
  | .v r => t.getV r = s.getV r
  | .index => t.index = s.index
  | .pc => t.pc = s.pc
  | .stack k => t.stack[k] = s.stack[k]
  | .sp => t.sp = s.sp
  | .pixel x y => t.pixel x.val y.val = s.pixel x.val y.val
  | .dt => t.dt = s.dt
  | .st => t.st = s.st
  | .key k => t.getKey k = s.getKey k
  | .latch => t.latch = s.latch
  | .quirks => t.quirks = s.quirks
  | .draws => t.draws = s.draws

/-- The frame: from `s` to `t` every part is unchanged but those of which `written` holds. -/
def UnchangedExcept (written : Part → Prop) (s t : State) : Prop :=
  ∀ p : Part, ¬ written p → p.same s t

/-- What every operation of the interface keeps (10_state.md R38), with the model's canonical form of
memory. `SP` in 0 to 16 and the widths of the registers hold by their types. -/
structure Inv (s : State) : Prop where
  /-- Memory is in its canonical form. -/
  memCanonical : s.mem.wf = true
  /-- `pc <= 0x10FE` (10_state.md R32, R38 (c)). -/
  pcInRange : s.pc.toNat ≤ 0x10FE
  /-- Every stack entry is 0 or a return address, at most 0x1000 (40_engine_cycle.md R92). -/
  stackInRange : ∀ k : Fin 16, (s.stack[k]).toNat ≤ 0x1000
  /-- The latch is idle unless `Q.release` (10_state.md R38 (d)). -/
  latchIdle : s.quirks.release = false → s.latch = none

/-- The instruction completes in `s`, which holds the advanced `pc`. -/
def Completes (i : Instr) (s : State) : Prop := ∃ t, exec i s = .next t

/-- A safe run: `k` steps with no fault (60_exceptions.md R182: a fault ends the run in failure). -/
def SafeRun (k : Nat) (s : State) : Prop :=
  ∃ t : State, Host.Core.run Sys2Proof.core k s = .next t

/-- The word at `pc`, from the two bytes there, high byte first (20_memory.md R55). -/
def wordAtPc (s : State) : Nat :=
  (s.readByte s.pc.toNat).toNat * 256 + (s.readByte (s.pc.toNat + 1)).toNat

/-- The word numbered `w` is the instruction `i` (30_encoding.md R74). -/
def EncodedAs (w : Nat) (i : Instr) : Prop := w < 65536 ∧ decode (BitVec.ofNat 16 w) = .ok i

/-- The condition of a skip instruction (41_control_flow.md R103 to R106; 45_keypad.md R150, R151). No
other instruction skips. -/
def SkipHolds (i : Instr) (s : State) : Prop :=
  match i with
  | .seImm x nn => s.getV x = nn
  | .sneImm x nn => s.getV x ≠ nn
  | .seReg x y => s.getV x = s.getV y
  | .sneReg x y => s.getV x ≠ s.getV y
  | .skp x => ∃ k : Key, k.val = (s.getV x).toNat ∧ s.getKey k = .down
  | .sknp x => ∃ k : Key, k.val = (s.getV x).toNat ∧ s.getKey k = .up
  | _ => False

/-- The instructions that leave `pc` elsewhere than after themselves or after the word they skip
(40_engine_cycle.md R97): 00EE, 1NNN, 2NNN, BNNN, FX0A. -/
def Transfers : Instr → Bool
  | .ret | .jp _ | .call _ | .jpV0 _ _ | .ldVxK _ => true
  | _ => false

/-- The registers that an instruction can write under the quirks `q` (10_state.md R25, R26): its
destination, and VF where it takes a flag. -/
def WritesV (q : Quirks) (r : Reg) : Instr → Prop
  | .ldImm x _ | .addImm x _ | .ldReg x _ | .rnd x _ | .ldVxDt x | .ldVxK x => r = x
  | .orReg x _ | .andReg x _ | .xorReg x _ => r = x ∨ (q.vfReset = true ∧ r = VF)
  | .addReg x _ | .subReg x _ | .subn x _ | .shr x _ | .shl x _ => r = x ∨ r = VF
  | .drw _ _ _ => r = VF
  | .ldVxMem x => r.val ≤ x.val
  | _ => False

/-- The faults that an instruction's handler can raise in `s` (40_engine_cycle.md R95; 60_exceptions.md
R170). -/
def RaisedBy (s : State) (f : Fault) : Instr → Prop
  | .ret => f = .stackUnderflow s ∧ s.sp.val = 0
  | .call _ => f = .stackOverflow s ∧ s.sp.val = 16
  | .drw _ _ n =>
    n.val ≠ 0 ∧ 0xFFF < s.index.toNat + n.val - 1 ∧
      f = .addressOutOfRange (max s.index.toNat 0x1000) s
  | .ldB _ =>
    (0xFFF < s.index.toNat + 2 ∧ f = .addressOutOfRange (max s.index.toNat 0x1000) s) ∨
      (s.index.toNat < 80 ∧ f = .fontWrite s.index.toNat s)
  | .ldMemVx x =>
    (0xFFF < s.index.toNat + x.val ∧ f = .addressOutOfRange (max s.index.toNat 0x1000) s) ∨
      (s.index.toNat < 80 ∧ f = .fontWrite s.index.toNat s)
  | .ldVxMem x =>
    0xFFF < s.index.toNat + x.val ∧ f = .addressOutOfRange (max s.index.toNat 0x1000) s
  | .skp x | .sknp x => 15 < (s.getV x).toNat ∧ f = .keyIndexOutOfRange (s.getV x) s
  | _ => False

/-- The sprite `rows`, drawn from column `x0` and row `y0`, has a 1-bit at pixel (x, y): clipped at the
screen's edges, or wrapped around them (44_display.md R141, R143). -/
def SpriteCovers (clip : Bool) (x0 y0 : Nat) (rows : List Byte) (x : Fin 64) (y : Fin 32) : Prop :=
  ∃ r c : Nat, ∃ row : Byte, rows[r]? = some row ∧ c < 8 ∧ row.getLsbD (7 - c) = true ∧
    (if clip then x.val = x0 + c ∧ y.val = y0 + r
     else x.val = (x0 + c) % 64 ∧ y.val = (y0 + r) % 32)

/-- The sprite that DXYN draws: the `n` bytes at the index register (44_display.md R141). -/
def spriteAt (s : State) (n : Nat) : List Byte :=
  (List.range n).map (fun r => s.readByte (s.index.toNat + r))

/-- Drawn pixels: those the sprite covers are toggled, the others as before (44_display.md R143). -/
def DrawnOver (clip : Bool) (x0 y0 : Nat) (rows : List Byte) (s t : State) : Prop :=
  ∀ (x : Fin 64) (y : Fin 32),
    (SpriteCovers clip x0 y0 rows x y → t.pixel x.val y.val = !s.pixel x.val y.val) ∧
    (¬ SpriteCovers clip x0 y0 rows x y → t.pixel x.val y.val = s.pixel x.val y.val)

end Sys2Proof.Machine
end

