-- ==== Sys2Proof/Certificates/Slice0/Obligations.lean ====
section
/-! DEFINITION. The statements for the provers. Where a statement is about `exec`, the state `s` is the
one a handler sees: `pc` already holds the address of the next instruction (40_engine_cycle.md R92);
`StepRunsTheDecodedInstruction` ties it to the step. Frames are `UnchangedExcept`. -/

open Sys2Proof Sys2Proof.Machine

/-! ### Encoding -/

/-- Words written out from the opcode map decode to the instruction they stand for, and four undefined
words are refused by name (30_encoding.md R74, R76). -/
def Obligations.WordsFromTheOpcodeMapDecode : Prop :=
  decode 0x00E0 = .ok .cls ∧ decode 0x00EE = .ok .ret ∧ decode 0x2208 = .ok (.call 0x208) ∧
  decode 0x5AB0 = .ok (.seReg 10 11) ∧ decode 0x600A = .ok (.ldImm 0 0x0A) ∧
  decode 0x8014 = .ok (.addReg 0 1) ∧ decode 0xA22A = .ok (.ldI 0x22A) ∧
  decode 0xB234 = .ok (.jpV0 0x234 2) ∧ decode 0xD125 = .ok (.drw 1 2 5) ∧
  decode 0xE39E = .ok (.skp 3) ∧ decode 0xF265 = .ok (.ldVxMem 2) ∧
  decode 0x0000 = .error (.undefinedWord 0x0000) ∧ decode 0x5AB1 = .error (.undefinedWord 0x5AB1) ∧
  decode 0x8ABF = .error (.undefinedWord 0x8ABF) ∧ decode 0xF075 = .error (.undefinedWord 0xF075)

/-- Decoding an encoded well-formed instruction gives it back, with every operand (30_encoding.md R72,
R82), from its word and from its bytes. -/
def Obligations.DecodeOfEncodeIsTheInstruction : Prop :=
  ∀ i : Instr, i.wellFormed = true →
    decode (encode i) = .ok i ∧ decodeBytes (encodeBytes i) = .ok (i, [])

/-- A word that decodes is the encoding of what it decodes to, which is well formed: no bit of a word is
dropped (30_encoding.md R73). -/
def Obligations.EncodeOfDecodeIsTheWord : Prop :=
  ∀ (op : Word) (i : Instr), decode op = .ok i → i.wellFormed = true ∧ encode i = op

/-- The decoder, a walk by family, agrees with the opcode map as masks: a word selects exactly one row,
that of the instruction it decodes to, or no row and is refused as undefined (30_encoding.md R73). -/
def Obligations.DecoderAgreesWithTheOpcodeMap : Prop :=
  ∀ op : Word,
    (∃ i, decode op = .ok i ∧
      (opcodeTable.filter (·.selectedBy op)).map OpcodeRow.mnemonic = [i.mnemonic]) ∨
    (decode op = .error (.undefinedWord op) ∧ opcodeTable.filter (·.selectedBy op) = [])

/-- The undefined words are exactly the five classes of 30_encoding.md R76 (class (b) rests on the spec's
decision D26). -/
def Obligations.UndefinedWordsAreExactlyTheFiveClasses : Prop :=
  ∀ op : Word, decode op = .error (.undefinedWord op) ↔
    (op.toNat ≤ 0x0FFF ∧ op.toNat ≠ 0x00E0 ∧ op.toNat ≠ 0x00EE) ∨
    ((op.toNat / 4096 = 0x5 ∨ op.toNat / 4096 = 0x9) ∧ op.toNat % 16 ≠ 0) ∨
    (op.toNat / 4096 = 0x8 ∧ 8 ≤ op.toNat % 16 ∧ op.toNat % 16 ≠ 0xE) ∨
    (op.toNat / 4096 = 0xE ∧ op.toNat % 256 ≠ 0x9E ∧ op.toNat % 256 ≠ 0xA1) ∨
    (op.toNat / 4096 = 0xF ∧
      op.toNat % 256 ∉ [0x07, 0x0A, 0x15, 0x18, 0x1E, 0x29, 0x33, 0x55, 0x65])

/-! ### The instruction cycle -/

/-- When the word at `pc` decodes to `i`, the step runs exactly `i`, with `pc` advanced by 2
(40_engine_cycle.md R90 to R93; 20_memory.md R55). -/
def Obligations.StepRunsTheDecodedInstruction : Prop :=
  ∀ (s : State) (i : Instr), s.pc.toNat ≤ 0xFFE → decode (BitVec.ofNat 16 (wordAtPc s)) = .ok i →
    step s = exec i { s with pc := BitVec.ofNat 16 (s.pc.toNat + 2) }

/-- A word that decodes to nothing faults after the advance, carrying the word (40_engine_cycle.md R94,
the spec's decision D4). -/
def Obligations.UndefinedWordFaultsAfterTheAdvance : Prop :=
  ∀ s : State, s.pc.toNat ≤ 0xFFE → (∀ i, decode (BitVec.ofNat 16 (wordAtPc s)) ≠ .ok i) →
    step s = .fault (.undefinedInstruction (BitVec.ofNat 16 (wordAtPc s))
      { s with pc := BitVec.ofNat 16 (s.pc.toNat + 2) })

/-- A fetch that would leave memory faults with the state unchanged (40_engine_cycle.md R91, the spec's
decision D5). -/
def Obligations.FetchOutsideMemoryFaults : Prop :=
  ∀ s : State, 0xFFE < s.pc.toNat →
    step s = .fault (.addressOutOfRange (max s.pc.toNat 0x1000) s)

/-- Faults are precise: a faulted step has done nothing but the advance, and nothing at all if the fetch
faulted (60_exceptions.md R181, the spec's decision D17). -/
def Obligations.FaultedStepLeavesOnlyThePcAdvanced : Prop :=
  ∀ (s : State) (f : Fault), step s = .fault f →
    (0xFFE < s.pc.toNat ∧ f.left = s) ∨
    (s.pc.toNat ≤ 0xFFE ∧ f.left = { s with pc := BitVec.ofNat 16 (s.pc.toNat + 2) })

/-- A step has two kinds of outcome, success or fault; nothing is refused (00_scope.md R15). -/
def Obligations.StepSucceedsOrFaults : Prop :=
  ∀ s : State, (∃ t, step s = .next t) ∨ (∃ f, step s = .fault f)

/-- A handler raises only the faults listed for its instruction, under the listed condition, before it
writes anything; every other instruction completes in every state (40_engine_cycle.md R95; 60_exceptions.md
R170, R177). -/
def Obligations.HandlersRaiseOnlyTheListedFaults : Prop :=
  ∀ (i : Instr) (s : State) (f : Fault), (exec i s = .fault f ↔ RaisedBy s f i) ∧
    ((∀ g, ¬ RaisedBy s g i) → Completes i s)

/-- But for the transfers, an ok step leaves `pc` 2 further, or 4 further exactly when the instruction is
a skip whose condition holds (40_engine_cycle.md R97; 41_control_flow.md R108 (a)). -/
def Obligations.PcAdvancesByTwoOrSkipsByFour : Prop :=
  ∀ (s t : State) (i : Instr), decode (BitVec.ofNat 16 (wordAtPc s)) = .ok i → Transfers i = false →
    step s = .next t →
    (SkipHolds i s → t.pc.toNat = s.pc.toNat + 4) ∧ (¬ SkipHolds i s → t.pc.toNat = s.pc.toNat + 2)

/-! ### Whole-machine rules -/

/-- No step changes a key or a quirk, whether it succeeds or faults (60_exceptions.md R183, R185;
10_state.md R36). -/
def Obligations.StepsNeverWriteKeysOrQuirks : Prop :=
  ∀ s : State, (stateAfterStep s).key = s.key ∧ (stateAfterStep s).quirks = s.quirks

/-- Among instructions only 00E0 and DXYN change a pixel (10_state.md R33, R38 (e)). -/
def Obligations.OnlyClearAndDrawChangePixels : Prop :=
  ∀ (i : Instr) (s t : State), exec i s = .next t → i ≠ .cls → (∀ x y n, i ≠ .drw x y n) →
    ∀ (x : Fin 64) (y : Fin 32), t.pixel x.val y.val = s.pixel x.val y.val

/-- Only FX33 and FX55 change memory, only 2NNN the stack, only 2NNN and 00EE `SP`, only FX0A the latch
(20_memory.md R58; 10_state.md R29, R35). -/
def Obligations.MemoryStackAndLatchHaveFewWriters : Prop :=
  ∀ (i : Instr) (s t : State), exec i s = .next t →
    ((∀ x, i ≠ .ldB x) → (∀ x, i ≠ .ldMemVx x) → ∀ a, t.readByte a = s.readByte a) ∧
    ((∀ n, i ≠ .call n) → ∀ k : Fin 16, t.stack[k] = s.stack[k]) ∧
    ((∀ n, i ≠ .call n) → i ≠ .ret → t.sp = s.sp) ∧
    ((∀ x, i ≠ .ldVxK x) → t.latch = s.latch)

/-- A V register changes only in an instruction whose destination it is, and VF also where the table of
10_state.md R26 says that the instruction writes it as a flag. -/
def Obligations.RegistersAndFlagHaveOnlyTheirWriters : Prop :=
  ∀ (i : Instr) (s t : State) (r : Reg), exec i s = .next t → ¬ WritesV s.quirks r i →
    t.getV r = s.getV r

/-! ### Invariants -/

/-- Every step keeps the invariant (10_state.md R38; the canonical form of memory is the model's own, log
entry 7). -/
def Obligations.EveryStepKeepsTheInvariant : Prop :=
  ∀ s t : State, Inv s → step s = .next t → Inv t

/-- The invariant holds after reset and after construction with any quirks and any font, wherever the
random source stands. -/
def Obligations.ConstructedStatesMeetTheInvariant : Prop :=
  Inv State.reset ∧ ∀ (q : Quirks) (font : Vector Byte 80) (n : Nat), Inv (State.construct q font n)

/-- Every operation of the host keeps the invariant, a faulted step among them (10_state.md R38;
60_exceptions.md R183). -/
def Obligations.EveryHostOperationKeepsTheInvariant : Prop :=
  ∀ (font : Vector Byte 80) (op : HostOp) (s : State), Inv s → Inv (op.apply font s)

/-- No operation but `reset` changes a byte of the font region: no step, and no `load` of any bytes
(10_state.md R38 (b); 20_memory.md R52). -/
def Obligations.FontRegionIsNeverWritten : Prop :=
  ∀ (font : Vector Byte 80) (op : HostOp) (s : State), s.mem.wf = true → op ≠ .reset →
    ∀ a : Nat, a < 80 → (op.apply font s).readByte a = s.readByte a

/-- In every state that operations reach from construction, with whatever programs are loaded, the font
bytes are `FONT`, the quirks are those of construction, and the invariant holds (10_state.md R38). -/
def Obligations.EveryRunKeepsFontQuirksAndInvariant : Prop :=
  ∀ (q : Quirks) (font : Vector Byte 80) (n : Nat) (ops : List HostOp),
    Inv (HostOp.applyAll font ops (State.construct q font n)) ∧
    (HostOp.applyAll font ops (State.construct q font n)).quirks = q ∧
    ∀ k : Fin 80, (HostOp.applyAll font ops (State.construct q font n)).readByte k.val = font[k]

/-! ### Control flow -/

/-- 1NNN (41_control_flow.md R101): `pc` takes NNN and nothing else changes; a jump to its own address
leaves the whole state unchanged, for ever. -/
def Obligations.JumpLoadsItsTarget : Prop :=
  (∀ (nnn : Addr) (s : State), EncodedAs (0x1000 + nnn.toNat) (.jp nnn) ∧
    ∃ t, exec (.jp nnn) s = .next t ∧ t.pc.toNat = nnn.toNat ∧
      UnchangedExcept (fun p => p = .pc) s t) ∧
  (∀ s : State, s.pc.toNat ≤ 0xFFE → wordAtPc s = 0x1000 + s.pc.toNat → step s = .next s)

/-- 2NNN with room on the stack (41_control_flow.md R102): the advanced `pc` is pushed. -/
def Obligations.CallPushesTheReturnAddress : Prop :=
  ∀ (nnn : Addr) (k : Fin 16) (s : State), s.sp.val = k.val →
    ∃ t, exec (.call nnn) s = .next t ∧ t.stack[k] = s.pc ∧ t.sp.val = k.val + 1 ∧
      t.pc.toNat = nnn.toNat ∧
      UnchangedExcept (fun p => p = .stack k ∨ p = .sp ∨ p = .pc) s t

/-- 00EE with an entry in use (41_control_flow.md R100): the popped slot keeps its content. -/
def Obligations.ReturnPopsTheReturnAddress : Prop :=
  ∀ (k : Fin 16) (s : State), s.sp.val = k.val + 1 →
    ∃ t, exec .ret s = .next t ∧ t.pc = s.stack[k] ∧ t.sp.val = k.val ∧
      UnchangedExcept (fun p => p = .pc ∨ p = .sp) s t

/-- A return right after a call comes back to the address after the call, with the stack pointer as
before (41_control_flow.md R100, R102). -/
def Obligations.ReturnUndoesACall : Prop :=
  ∀ (nnn : Addr) (s t : State), exec (.call nnn) s = .next t →
    ∃ u, exec .ret t = .next u ∧ u.pc = s.pc ∧ u.sp = s.sp

/-- The seventeenth nested call and a return from an empty stack fault and change nothing (60_exceptions.md
R173, R174, the spec's decision D7). -/
def Obligations.StackOverflowAndUnderflowFault : Prop :=
  (∀ (nnn : Addr) (s : State), s.sp.val = 16 → exec (.call nnn) s = .fault (.stackOverflow s)) ∧
  (∀ s : State, s.sp.val = 0 → exec .ret s = .fault (.stackUnderflow s))

/-- 3XNN and 4XNN (41_control_flow.md R103, R104). -/
def Obligations.SkipsOnAnImmediate : Prop :=
  ∀ (x : Reg) (nn : Byte) (s : State),
    (EncodedAs (0x3000 + x.val * 256 + nn.toNat) (.seImm x nn) ∧
      ∃ t, exec (.seImm x nn) s = .next t ∧
        t.pc = (if s.getV x = nn then s.pc + 2 else s.pc) ∧
        UnchangedExcept (fun p => p = .pc) s t) ∧
    (EncodedAs (0x4000 + x.val * 256 + nn.toNat) (.sneImm x nn) ∧
      ∃ t, exec (.sneImm x nn) s = .next t ∧
        t.pc = (if s.getV x ≠ nn then s.pc + 2 else s.pc) ∧
        UnchangedExcept (fun p => p = .pc) s t)

/-- 5XY0 and 9XY0 (41_control_flow.md R105, R106). -/
def Obligations.SkipsOnTwoRegisters : Prop :=
  ∀ (x y : Reg) (s : State),
    (EncodedAs (0x5000 + x.val * 256 + y.val * 16) (.seReg x y) ∧
      ∃ t, exec (.seReg x y) s = .next t ∧
        t.pc = (if s.getV x = s.getV y then s.pc + 2 else s.pc) ∧
        UnchangedExcept (fun p => p = .pc) s t) ∧
    (EncodedAs (0x9000 + x.val * 256 + y.val * 16) (.sneReg x y) ∧
      ∃ t, exec (.sneReg x y) s = .next t ∧
        t.pc = (if s.getV x ≠ s.getV y then s.pc + 2 else s.pc) ∧
        UnchangedExcept (fun p => p = .pc) s t)

/-- BNNN (41_control_flow.md R107): V0, or with `Q.jumping` the register of the address's high nibble, is
added, and the sum is not masked. -/
def Obligations.OffsetJumpAddsARegister : Prop :=
  ∀ (nnn : Addr) (x : Reg) (s : State), x.val = nnn.toNat / 256 →
    EncodedAs (0xB000 + nnn.toNat) (.jpV0 nnn x) ∧
    ∃ t, exec (.jpV0 nnn x) s = .next t ∧
      t.pc.toNat = nnn.toNat + (if s.quirks.jumping then s.getV x else s.getV 0).toNat ∧
      UnchangedExcept (fun p => p = .pc) s t

/-! ### Registers -/

/-- 6XNN, 7XNN, 8XY0 (42_register_alu.md R110 to R112). -/
def Obligations.LoadsAndImmediateAdd : Prop :=
  ∀ (x y : Reg) (nn : Byte) (s : State),
    (EncodedAs (0x6000 + x.val * 256 + nn.toNat) (.ldImm x nn) ∧
      ∃ t, exec (.ldImm x nn) s = .next t ∧ t.getV x = nn ∧
        UnchangedExcept (fun p => p = .v x) s t) ∧
    (EncodedAs (0x7000 + x.val * 256 + nn.toNat) (.addImm x nn) ∧
      ∃ t, exec (.addImm x nn) s = .next t ∧
        (t.getV x).toNat = ((s.getV x).toNat + nn.toNat) % 256 ∧
        UnchangedExcept (fun p => p = .v x) s t) ∧
    (EncodedAs (0x8000 + x.val * 256 + y.val * 16) (.ldReg x y) ∧
      ∃ t, exec (.ldReg x y) s = .next t ∧ t.getV x = s.getV y ∧
        UnchangedExcept (fun p => p = .v x) s t)

/-- 8XY1, 8XY2, 8XY3 (42_register_alu.md R113 to R115): with `Q.vf_reset` an operand that is VF counts as
0, and VF ends 0 unless it is the destination; without the quirk VF is untouched. -/
def Obligations.LogicalOperations : Prop :=
  ∀ (x y : Reg) (s : State) (a b : Byte),
    a = (if s.quirks.vfReset = true ∧ x = VF then 0 else s.getV x) →
    b = (if s.quirks.vfReset = true ∧ y = VF then 0 else s.getV y) →
    (EncodedAs (0x8001 + x.val * 256 + y.val * 16) (.orReg x y) ∧
      ∃ t, exec (.orReg x y) s = .next t ∧ t.getV x = a ||| b ∧
        (s.quirks.vfReset = true → x ≠ VF → t.getV VF = 0) ∧
        UnchangedExcept (fun p => p = .v x ∨ (s.quirks.vfReset = true ∧ p = .v VF)) s t) ∧
    (EncodedAs (0x8002 + x.val * 256 + y.val * 16) (.andReg x y) ∧
      ∃ t, exec (.andReg x y) s = .next t ∧ t.getV x = a &&& b ∧
        (s.quirks.vfReset = true → x ≠ VF → t.getV VF = 0) ∧
        UnchangedExcept (fun p => p = .v x ∨ (s.quirks.vfReset = true ∧ p = .v VF)) s t) ∧
    (EncodedAs (0x8003 + x.val * 256 + y.val * 16) (.xorReg x y) ∧
      ∃ t, exec (.xorReg x y) s = .next t ∧ t.getV x = a ^^^ b ∧
        (s.quirks.vfReset = true → x ≠ VF → t.getV VF = 0) ∧
        UnchangedExcept (fun p => p = .v x ∨ (s.quirks.vfReset = true ∧ p = .v VF)) s t)

/-- 8XY4 (42_register_alu.md R116): VF takes the carry whatever it held, and where it is the destination
the sum is lost. -/
def Obligations.AddRegistersWithCarry : Prop :=
  ∀ (x y : Reg) (s : State),
    EncodedAs (0x8004 + x.val * 256 + y.val * 16) (.addReg x y) ∧
    ∃ t, exec (.addReg x y) s = .next t ∧
      (x ≠ VF → (t.getV x).toNat = ((s.getV x).toNat + (s.getV y).toNat) % 256) ∧
      t.getV VF = (if (s.getV x).toNat + (s.getV y).toNat > 255 then 1 else 0) ∧
      UnchangedExcept (fun p => p = .v x ∨ p = .v VF) s t

/-- 8XY5 (42_register_alu.md R117): VF is 1 exactly when no borrow occurs, equal operands among them
(the spec's own inference for the equal case). -/
def Obligations.SubtractionWithBorrow : Prop :=
  ∀ (x y : Reg) (s : State),
    EncodedAs (0x8005 + x.val * 256 + y.val * 16) (.subReg x y) ∧
    ∃ t, exec (.subReg x y) s = .next t ∧
      (x ≠ VF → (t.getV x).toNat = (256 + (s.getV x).toNat - (s.getV y).toNat) % 256) ∧
      t.getV VF = (if (s.getV x).toNat ≥ (s.getV y).toNat then 1 else 0) ∧
      UnchangedExcept (fun p => p = .v x ∨ p = .v VF) s t

/-- 8XY7 (42_register_alu.md R119): the operands the other way round. -/
def Obligations.ReverseSubtractionWithBorrow : Prop :=
  ∀ (x y : Reg) (s : State),
    EncodedAs (0x8007 + x.val * 256 + y.val * 16) (.subn x y) ∧
    ∃ t, exec (.subn x y) s = .next t ∧
      (x ≠ VF → (t.getV x).toNat = (256 + (s.getV y).toNat - (s.getV x).toNat) % 256) ∧
      t.getV VF = (if (s.getV y).toNat ≥ (s.getV x).toNat then 1 else 0) ∧
      UnchangedExcept (fun p => p = .v x ∨ p = .v VF) s t

/-- 8XY6 and 8XYE (42_register_alu.md R118, R120; the order is the spec's decision D10): `b` is the value
shifted. Where VF is the destination the flag is shifted too: 8FY6 ends with 0, 8FYE with 0 or 2. -/
def Obligations.ShiftsByOnePlace : Prop :=
  ∀ (x y : Reg) (s : State) (b : Nat),
    b = (if s.quirks.shifting then s.getV x else s.getV y).toNat →
    (EncodedAs (0x8006 + x.val * 256 + y.val * 16) (.shr x y) ∧
      ∃ t, exec (.shr x y) s = .next t ∧
        (x ≠ VF → (t.getV x).toNat = b / 2 ∧ (t.getV VF).toNat = b % 2) ∧
        (x = VF → t.getV VF = 0) ∧
        UnchangedExcept (fun p => p = .v x ∨ p = .v VF) s t) ∧
    (EncodedAs (0x800E + x.val * 256 + y.val * 16) (.shl x y) ∧
      ∃ t, exec (.shl x y) s = .next t ∧
        (x ≠ VF → (t.getV x).toNat = 2 * b % 256 ∧ (t.getV VF).toNat = b / 128) ∧
        (x = VF → (t.getV VF).toNat = 2 * (b / 128)) ∧
        UnchangedExcept (fun p => p = .v x ∨ p = .v VF) s t)

/-- CXNN (42_register_alu.md R124, the spec's decision D13): VX takes `rnd & NN` for a byte `rnd` that
nothing constrains; the count of draws is the model's own (log entry 3) and the statement holds for every
value of it. -/
def Obligations.RandomByteIsMasked : Prop :=
  ∀ (x : Reg) (nn : Byte) (s : State),
    EncodedAs (0xC000 + x.val * 256 + nn.toNat) (.rnd x nn) ∧
    ∃ t, exec (.rnd x nn) s = .next t ∧ t.getV x = Config.randomByte s.draws &&& nn ∧
      t.draws = s.draws + 1 ∧ UnchangedExcept (fun p => p = .v x ∨ p = .draws) s t

/-- The random bytes come from outside the state (60_exceptions.md R190; 42_register_alu.md R124, the
spec's decision D13), so no two draws of one run are the same draw: the place of a draw in the source is
below the place of every later one, whatever host operations come between, `reset` among them. The place
is the model's own count (log entry 3). -/
def Obligations.NoRandomDrawIsUsedTwice : Prop :=
  (∀ (font : Vector Byte 80) (ops : List HostOp) (s : State),
    s.draws ≤ (HostOp.applyAll font ops s).draws) ∧
  (∀ (font : Vector Byte 80) (ops : List HostOp) (x : Reg) (nn : Byte) (s t : State),
    exec (.rnd x nn) s = .next t → s.draws < (HostOp.applyAll font ops t).draws)

/-! ### Index register and memory -/

/-- ANNN (43_index_memory.md R130). -/
def Obligations.LoadIndex : Prop :=
  ∀ (nnn : Addr) (s : State), EncodedAs (0xA000 + nnn.toNat) (.ldI nnn) ∧
    ∃ t, exec (.ldI nnn) s = .next t ∧ t.index.toNat = nnn.toNat ∧
      UnchangedExcept (fun p => p = .index) s t

/-- FX1E and FX29 (43_index_memory.md R131, R132; the spec's decisions D6, D1): 16 bits, no flag, and only
the low nibble names a glyph. -/
def Obligations.AddToIndexAndGlyphAddress : Prop :=
  ∀ (x : Reg) (s : State),
    (∃ t, exec (.addI x) s = .next t ∧
      t.index.toNat = (s.index.toNat + (s.getV x).toNat) % 65536 ∧
      UnchangedExcept (fun p => p = .index) s t) ∧
    (∃ t, exec (.ldF x) s = .next t ∧ t.index.toNat = 5 * ((s.getV x).toNat % 16) ∧
      UnchangedExcept (fun p => p = .index) s t)

/-- FX33 inside memory and above the font (43_index_memory.md R134). -/
def Obligations.StoreDecimalDigits : Prop :=
  ∀ (x : Reg) (s : State), s.mem.wf = true → 80 ≤ s.index.toNat → s.index.toNat + 2 ≤ 0xFFF →
    ∃ t, exec (.ldB x) s = .next t ∧
      (t.readByte s.index.toNat).toNat = (s.getV x).toNat / 100 ∧
      (t.readByte (s.index.toNat + 1)).toNat = (s.getV x).toNat / 10 % 10 ∧
      (t.readByte (s.index.toNat + 2)).toNat = (s.getV x).toNat % 10 ∧
      UnchangedExcept (fun p => ∃ k, k < 3 ∧ p = .mem (s.index.toNat + k)) s t

/-- FX55 inside memory and above the font (43_index_memory.md R135). -/
def Obligations.StoreRegisters : Prop :=
  ∀ (x : Reg) (s : State), s.mem.wf = true → 80 ≤ s.index.toNat → s.index.toNat + x.val ≤ 0xFFF →
    ∃ t, exec (.ldMemVx x) s = .next t ∧
      (∀ r : Reg, r.val ≤ x.val → t.readByte (s.index.toNat + r.val) = s.getV r) ∧
      (s.quirks.memory = true → t.index.toNat = (s.index.toNat + x.val + 1) % 65536) ∧
      UnchangedExcept (fun p => (∃ k, k ≤ x.val ∧ p = .mem (s.index.toNat + k)) ∨
        (s.quirks.memory = true ∧ p = .index)) s t

/-- FX65 inside memory (43_index_memory.md R136). -/
def Obligations.LoadRegisters : Prop :=
  ∀ (x : Reg) (s : State), s.index.toNat + x.val ≤ 0xFFF →
    ∃ t, exec (.ldVxMem x) s = .next t ∧
      (∀ r : Reg, r.val ≤ x.val → t.getV r = s.readByte (s.index.toNat + r.val)) ∧
      (s.quirks.memory = true → t.index.toNat = (s.index.toNat + x.val + 1) % 65536) ∧
      UnchangedExcept (fun p => (∃ r : Reg, r.val ≤ x.val ∧ p = .v r) ∨
        (s.quirks.memory = true ∧ p = .index)) s t

/-- FX33, FX55, FX65 past 0xFFF, and FX33, FX55 into the font region: a fault that records the first
address in question, and nothing stored or loaded (60_exceptions.md R172, R175; the spec's decisions D5,
D8). -/
def Obligations.StoresAndLoadsFaultOutsideTheirRange : Prop :=
  ∀ (x : Reg) (s : State),
    (0xFFF < s.index.toNat + 2 →
      exec (.ldB x) s = .fault (.addressOutOfRange (max s.index.toNat 0x1000) s)) ∧
    (0xFFF < s.index.toNat + x.val →
      exec (.ldMemVx x) s = .fault (.addressOutOfRange (max s.index.toNat 0x1000) s)) ∧
    (0xFFF < s.index.toNat + x.val →
      exec (.ldVxMem x) s = .fault (.addressOutOfRange (max s.index.toNat 0x1000) s)) ∧
    (s.index.toNat < 80 → exec (.ldB x) s = .fault (.fontWrite s.index.toNat s)) ∧
    (s.index.toNat < 80 → exec (.ldMemVx x) s = .fault (.fontWrite s.index.toNat s))

/-- The checked primitives (20_memory.md R57, R58; the spec's decisions D5, D8): the whole range first,
the font region second, no partial access. -/
def Obligations.MemoryPrimitivesCheckTheWholeRange : Prop :=
  ∀ (s : State) (a n : Nat) (v : List Byte), 1 ≤ n → v.length = n →
    (0xFFF < a + n - 1 →
      memRead s a n = .error (.addressOutOfRange (max a 0x1000) s) ∧
      memWrite s a v = .error (.addressOutOfRange (max a 0x1000) s)) ∧
    (a + n - 1 ≤ 0xFFF →
      (∃ bs, memRead s a n = .ok bs ∧ bs.length = n ∧
        ∀ k, k < n → bs[k]? = some (s.readByte (a + k))) ∧
      (a < 80 → memWrite s a v = .error (.fontWrite a s)) ∧
      (80 ≤ a → s.mem.wf = true → ∃ t, memWrite s a v = .ok t ∧ t.mem.wf = true ∧
        (∀ k, k < n → v[k]? = some (t.readByte (a + k))) ∧
        UnchangedExcept (fun p => ∃ k, k < n ∧ p = .mem (a + k)) s t))

/-- FX55, then, in any state with the same memory and the old index, FX65 with the same X brings back
the register values stored (43_index_memory.md R136). -/
def Obligations.StoreThenLoadRestoresRegisters : Prop :=
  ∀ (x : Reg) (s t u : State), s.mem.wf = true → exec (.ldMemVx x) s = .next t →
    u.mem = t.mem → u.index = s.index →
    ∃ w, exec (.ldVxMem x) u = .next w ∧ ∀ r : Reg, r.val ≤ x.val → w.getV r = s.getV r

/-- Self-modifying code: a word that FX55 stores at `pc` is the one the next step runs (20_memory.md R65,
R55). -/
def Obligations.StoredWordIsFetchedByTheNextStep : Prop :=
  ∀ (x : Reg) (s t : State) (i : Instr), s.mem.wf = true → 1 ≤ x.val → s.pc = s.index →
    exec (.ldMemVx x) s = .next t →
    decode (BitVec.ofNat 16 ((s.getV 0).toNat * 256 + (s.getV 1).toNat)) = .ok i →
    step t = exec i { t with pc := BitVec.ofNat 16 (t.pc.toNat + 2) }

/-! ### Display -/

/-- 00E0 (44_display.md R140). -/
def Obligations.ClearBlanksTheDisplay : Prop :=
  EncodedAs 0x00E0 .cls ∧
  ∀ s : State, ∃ t, exec .cls s = .next t ∧
    (∀ (x : Fin 64) (y : Fin 32), t.pixel x.val y.val = false) ∧
    UnchangedExcept (fun p => ∃ x y, p = .pixel x y) s t

/-- DXYN (44_display.md R141 to R143): the loops give the closed form. A pixel is toggled exactly where
the sprite, clipped or wrapped, has a 1-bit; VF is 1 exactly if one of these was set, else 0; nothing else
changes. The coordinates are read before VF is zeroed, so X and Y may be VF (the spec's decision D11). -/
def Obligations.DrawTogglesExactlyTheSprite : Prop :=
  ∀ (x y : Reg) (n : Fin 16) (s : State) (x0 y0 : Nat),
    n.val = 0 ∨ s.index.toNat + n.val - 1 ≤ 0xFFF →
    x0 = (s.getV x).toNat % 64 → y0 = (s.getV y).toNat % 32 →
    ∃ t, exec (.drw x y n) s = .next t ∧
      DrawnOver s.quirks.clipping x0 y0 (spriteAt s n.val) s t ∧
      ((∃ (p : Fin 64) (q : Fin 32),
          SpriteCovers s.quirks.clipping x0 y0 (spriteAt s n.val) p q ∧
          s.pixel p.val q.val = true) → t.getV VF = 1) ∧
      ((∀ (p : Fin 64) (q : Fin 32),
          SpriteCovers s.quirks.clipping x0 y0 (spriteAt s n.val) p q →
          s.pixel p.val q.val = false) → t.getV VF = 0) ∧
      UnchangedExcept (fun p => p = .v VF ∨ ∃ a b, p = .pixel a b) s t

/-- DXYN whose sprite passes 0xFFF faults before VF or a pixel changes, whatever clipping would skip
(44_display.md R141; the spec's decisions D5, D11). -/
def Obligations.DrawFaultsWhenTheSpriteLeavesMemory : Prop :=
  ∀ (x y : Reg) (n : Fin 16) (s : State), n.val ≠ 0 → 0xFFF < s.index.toNat + n.val - 1 →
    exec (.drw x y n) s = .fault (.addressOutOfRange (max s.index.toNat 0x1000) s)

/-- Drawing the same sprite twice at the same place brings every pixel back; on a blank display the first
draw leaves VF 0 and the second 1, if the sprite has a 1-bit on the grid (44_display.md R144). -/
def Obligations.DrawingTwiceRestoresTheDisplay : Prop :=
  ∀ (x y : Reg) (n : Fin 16) (s t : State), x ≠ VF → y ≠ VF → exec (.drw x y n) s = .next t →
    ∃ u, exec (.drw x y n) t = .next u ∧
      (∀ (p : Fin 64) (q : Fin 32), u.pixel p.val q.val = s.pixel p.val q.val) ∧
      ((∀ (p : Fin 64) (q : Fin 32), s.pixel p.val q.val = false) →
        t.getV VF = 0 ∧
        ((∃ (p : Fin 64) (q : Fin 32), SpriteCovers s.quirks.clipping ((s.getV x).toNat % 64)
            ((s.getV y).toNat % 32) (spriteAt s n.val) p q) → u.getV VF = 1))

/-! ### Keypad -/

/-- EX9E and EXA1 with a key number in VX (45_keypad.md R150, R151). -/
def Obligations.SkipsOnAKey : Prop :=
  ∀ (x : Reg) (k : Key) (s : State), (s.getV x).toNat = k.val →
    (∃ t, exec (.skp x) s = .next t ∧
      t.pc = (if s.getKey k = .down then s.pc + 2 else s.pc) ∧
      UnchangedExcept (fun p => p = .pc) s t) ∧
    (∃ t, exec (.sknp x) s = .next t ∧
      t.pc = (if s.getKey k = .up then s.pc + 2 else s.pc) ∧
      UnchangedExcept (fun p => p = .pc) s t)

/-- EX9E and EXA1 with a number above 15 in VX (60_exceptions.md R176, the spec's decision D9). -/
def Obligations.KeySkipsFaultAboveFifteen : Prop :=
  ∀ (x : Reg) (s : State), 15 < (s.getV x).toNat →
    exec (.skp x) s = .fault (.keyIndexOutOfRange (s.getV x) s) ∧
    exec (.sknp x) s = .fault (.keyIndexOutOfRange (s.getV x) s)

/-- FX0A as the state machine of 45_keypad.md R153, row by row. `s.pc` is `pc0 + 2`, so `s.pc - 2` is
`pc0`: not completing. -/
def Obligations.KeyWaitStateMachine : Prop :=
  ∀ (x : Reg) (s : State),
    (s.latch = none → (∀ k, s.getKey k = .up) →
      ∃ t, exec (.ldVxK x) s = .next t ∧ t.pc = s.pc - 2 ∧ UnchangedExcept (fun p => p = .pc) s t) ∧
    (∀ k : Key, s.quirks.release = false → s.latch = none → s.getKey k = .down →
      (∀ j, j < k → s.getKey j = .up) →
      ∃ t, exec (.ldVxK x) s = .next t ∧ (t.getV x).toNat = k.val ∧
        UnchangedExcept (fun p => p = .v x) s t) ∧
    (∀ k : Key, s.quirks.release = true → s.latch = none → s.getKey k = .down →
      (∀ j, j < k → s.getKey j = .up) →
      ∃ t, exec (.ldVxK x) s = .next t ∧ (t.getV x).toNat = k.val ∧ t.latch = some k ∧
        t.pc = s.pc - 2 ∧ UnchangedExcept (fun p => p = .v x ∨ p = .latch ∨ p = .pc) s t) ∧
    (∀ j : Key, s.quirks.release = true → s.latch = some j → s.getKey j = .down →
      ∃ t, exec (.ldVxK x) s = .next t ∧ t.pc = s.pc - 2 ∧ UnchangedExcept (fun p => p = .pc) s t) ∧
    (∀ j : Key, s.quirks.release = true → s.latch = some j → s.getKey j = .up →
      ∃ t, exec (.ldVxK x) s = .next t ∧ t.latch = none ∧
        UnchangedExcept (fun p => p = .latch) s t)

/-! ### Timers -/

/-- FX07 and FX15 (46_timers.md R160, R161); no other instruction changes `DT`. -/
def Obligations.DelayTimerInstructions : Prop :=
  (∀ (x : Reg) (s : State),
    (EncodedAs (0xF007 + x.val * 256) (.ldVxDt x) ∧
      ∃ t, exec (.ldVxDt x) s = .next t ∧ t.getV x = s.dt ∧
        UnchangedExcept (fun p => p = .v x) s t) ∧
    (EncodedAs (0xF015 + x.val * 256) (.ldDtVx x) ∧
      ∃ t, exec (.ldDtVx x) s = .next t ∧ t.dt = s.getV x ∧
        UnchangedExcept (fun p => p = .dt) s t)) ∧
  (∀ (i : Instr) (s t : State), exec i s = .next t → (∀ x, i ≠ .ldDtVx x) → t.dt = s.dt)

/-- FX18 (46_timers.md R162): it writes `ST`, and no instruction's effect depends on `ST`, so a program
cannot learn its value. The second clause compares two runs that draw the same random byte, which its CXNN
case needs: that equal counts of draws give equal bytes is the model's choice (log entry 3, DESIGN CHOICE),
and fits here because the byte is an input of the step that does not come from `ST`. -/
def Obligations.SoundTimerIsWrittenAndNeverRead : Prop :=
  (∀ (x : Reg) (s : State), EncodedAs (0xF018 + x.val * 256) (.ldStVx x) ∧
    ∃ t, exec (.ldStVx x) s = .next t ∧ t.st = s.getV x ∧ UnchangedExcept (fun p => p = .st) s t) ∧
  (∀ (i : Instr) (s t : State) (b : Byte), exec i s = .next t →
    ∃ u, exec i (s.setSt b) = .next u ∧ UnchangedExcept (fun p => p = .st) t u)

/-- `tick_timers` (46_timers.md R163): each timer falls by one and stays at 0, after n ticks by n, nothing
else changes; and an instruction changes a timer only by writing it. -/
def Obligations.TicksCountDownToZero : Prop :=
  (∀ s : State, (tickTimers s).dt.toNat = s.dt.toNat - 1 ∧ (tickTimers s).st.toNat = s.st.toNat - 1 ∧
    UnchangedExcept (fun p => p = .dt ∨ p = .st) s (tickTimers s)) ∧
  (∀ (n : Nat) (s : State), (tickTimers^[n] s).dt.toNat = s.dt.toNat - n ∧
    (tickTimers^[n] s).st.toNat = s.st.toNat - n) ∧
  (∀ (i : Instr) (s t : State), exec i s = .next t →
    ((∀ x, i ≠ .ldDtVx x) → t.dt = s.dt) ∧ ((∀ x, i ≠ .ldStVx x) → t.st = s.st))

/-! ### Host operations and reset -/

/-- `set_key` (60_exceptions.md R185, the spec's decision D14). -/
def Obligations.SetKeyWritesOneKey : Prop :=
  ∀ (k : Key) (u : KeyState) (s : State), (setKey k u s).getKey k = u ∧
    UnchangedExcept (fun p => p = .key k) s (setKey k u s)

/-- `load` (60_exceptions.md R186, the spec's decision D15): verbatim from 0x200 up, or refused whole. -/
def Obligations.LoadCopiesTheImageOrRefusesIt : Prop :=
  ∀ (bytes : List Byte) (s : State), s.mem.wf = true →
    (bytes.length ≤ 3584 → ∃ t, load bytes s = .accepted t ∧
      (∀ k, k < bytes.length → bytes[k]? = some (t.readByte (0x200 + k))) ∧
      UnchangedExcept (fun p => ∃ k, k < bytes.length ∧ p = .mem (0x200 + k)) s t) ∧
    (3584 < bytes.length → load bytes s = .refused s)

/-- `reset` (70_reset_and_hazards.md R200; 10_state.md R37; the spec's decisions D14, D24): every piece of
state at its reset value, for any quirks, which are kept, and any font. The model's own count of draws
goes on (log entry 3), since the random bytes come from outside the state (60_exceptions.md R190). -/
def Obligations.HostResetRestoresTheResetValues : Prop :=
  ∀ (font : Vector Byte 80) (s t : State), t = hostReset font s →
    (∀ k : Fin 80, t.readByte k.val = font[k]) ∧
    (∀ a, 80 ≤ a → t.readByte a = 0) ∧
    (∀ r, t.getV r = 0) ∧ t.index = 0 ∧ t.pc = 0x0200 ∧ t.sp = 0 ∧
    (∀ k : Fin 16, t.stack[k] = 0) ∧ (∀ (x : Fin 64) (y : Fin 32), t.pixel x.val y.val = false) ∧
    t.dt = 0 ∧ t.st = 0 ∧ (∀ k, t.getKey k = .up) ∧ t.latch = none ∧ t.quirks = s.quirks ∧
    t.draws = s.draws

/-- Stepping without a program (70_reset_and_hazards.md R203): after construction, or `reset` of any
state, the first step fetches 0x0000 and faults with `pc` at 0x0202. -/
def Obligations.SteppingWithoutAProgramFaults : Prop :=
  ∀ (q : Quirks) (font : Vector Byte 80) (n : Nat),
    step (State.construct q font n) =
      .fault (.undefinedInstruction 0x0000 { State.construct q font n with pc := 0x0202 })
end

