-- ==== Sys2Proof/Laws/Decode.lean ====
section
/-! SUPPORT. The fields of a word and the words of the formats, in arithmetic, and what the fields of a
formatted word are (30_encoding.md R71, R72). -/

namespace Sys2Proof

theorem family_eq (op : Word) : family op = op.toNat / 4096 := by
  have := op.isLt
  simp only [family, BitVec.extractLsb_toNat, Nat.shiftRight_eq_div_pow]
  omega

theorem fieldX_val (op : Word) : (fieldX op).val = op.toNat / 256 % 16 := by
  show (op.extractLsb 11 8).toNat = _
  simp only [BitVec.extractLsb_toNat, Nat.shiftRight_eq_div_pow]

theorem fieldY_val (op : Word) : (fieldY op).val = op.toNat / 16 % 16 := by
  show (op.extractLsb 7 4).toNat = _
  simp only [BitVec.extractLsb_toNat, Nat.shiftRight_eq_div_pow]

theorem fieldN_val (op : Word) : (fieldN op).val = op.toNat % 16 := by
  show (op.extractLsb 3 0).toNat = _
  simp only [BitVec.extractLsb_toNat, Nat.shiftRight_eq_div_pow]
  omega

theorem fieldNN_toNat (op : Word) : (fieldNN op).toNat = op.toNat % 256 := by
  show (op.extractLsb 7 0).toNat = _
  simp only [BitVec.extractLsb_toNat, Nat.shiftRight_eq_div_pow]
  omega

theorem fieldNNN_toNat (op : Word) : (fieldNNN op).toNat = op.toNat % 4096 := by
  show (op.extractLsb 11 0).toNat = _
  simp only [BitVec.extractLsb_toNat, Nat.shiftRight_eq_div_pow]
  omega

theorem toNat_append_eq {n m : Nat} (a : BitVec n) (b : BitVec m) :
    (a ++ b).toNat = a.toNat * 2 ^ m + b.toNat := by
  rw [BitVec.toNat_append, ← Nat.shiftLeft_add_eq_or_of_lt b.isLt, Nat.shiftLeft_eq]

theorem formatNNN_toNat (f : BitVec 4) (nnn : Addr) :
    (formatNNN f nnn).toNat = f.toNat * 4096 + nnn.toNat :=
  toNat_append_eq f nnn

theorem formatXNN_toNat (f : BitVec 4) (x : Reg) (nn : Byte) :
    (formatXNN f x nn).toNat = f.toNat * 4096 + x.val * 256 + nn.toNat := by
  show (f ++ BitVec.ofFin (w := 4) x ++ nn).toNat = _
  simp only [toNat_append_eq]
  show (f.toNat * 2 ^ 4 + x.val) * 2 ^ 8 + nn.toNat = _
  omega

theorem formatXYN_toNat (f : BitVec 4) (x y : Reg) (n : Fin 16) :
    (formatXYN f x y n).toNat = f.toNat * 4096 + x.val * 256 + y.val * 16 + n.val := by
  show (f ++ BitVec.ofFin (w := 4) x ++ BitVec.ofFin (w := 4) y ++ BitVec.ofFin (w := 4) n).toNat = _
  simp only [toNat_append_eq]
  show ((f.toNat * 2 ^ 4 + x.val) * 2 ^ 4 + y.val) * 2 ^ 4 + n.val = _
  omega

section
variable (f : BitVec 4) (nnn : Addr) (x y : Reg) (nn : Byte) (n : Fin 16)

@[simp] theorem family_formatNNN : family (formatNNN f nnn) = f.toNat := by
  have := nnn.isLt
  rw [family_eq, formatNNN_toNat]
  omega

@[simp] theorem family_formatXNN : family (formatXNN f x nn) = f.toNat := by
  have := nn.isLt
  rw [family_eq, formatXNN_toNat]
  omega

@[simp] theorem family_formatXYN : family (formatXYN f x y n) = f.toNat := by
  rw [family_eq, formatXYN_toNat]
  omega

@[simp] theorem fieldNNN_formatNNN : fieldNNN (formatNNN f nnn) = nnn := by
  have := nnn.isLt
  apply BitVec.eq_of_toNat_eq
  rw [fieldNNN_toNat, formatNNN_toNat]
  omega

theorem fieldX_formatNNN : (fieldX (formatNNN f nnn)).val = nnn.toNat / 256 := by
  have := nnn.isLt
  rw [fieldX_val, formatNNN_toNat]
  omega

@[simp] theorem fieldX_formatXNN : fieldX (formatXNN f x nn) = x := by
  have := nn.isLt
  apply Fin.ext
  rw [fieldX_val, formatXNN_toNat]
  omega

@[simp] theorem fieldNN_formatXNN : fieldNN (formatXNN f x nn) = nn := by
  have := nn.isLt
  apply BitVec.eq_of_toNat_eq
  rw [fieldNN_toNat, formatXNN_toNat]
  omega

@[simp] theorem fieldX_formatXYN : fieldX (formatXYN f x y n) = x := by
  apply Fin.ext
  rw [fieldX_val, formatXYN_toNat]
  omega

@[simp] theorem fieldY_formatXYN : fieldY (formatXYN f x y n) = y := by
  apply Fin.ext
  rw [fieldY_val, formatXYN_toNat]
  omega

@[simp] theorem fieldN_formatXYN : fieldN (formatXYN f x y n) = n := by
  apply Fin.ext
  rw [fieldN_val, formatXYN_toNat]
  omega

end

/-! ### The masks of the opcode map on formatted words -/

theorem formatNNN_masked (f : BitVec 4) (nnn : Addr) :
    formatNNN f nnn &&& 0xF000 = formatNNN f 0 := by
  show (f ++ nnn) &&& (0xF#4 ++ 0#12) = f ++ 0#12
  rw [BitVec.and_append, BitVec.and_zero, show (0xF#4) = BitVec.allOnes 4 from rfl,
    BitVec.and_allOnes]

theorem formatXNN_masked (f : BitVec 4) (x : Reg) (nn : Byte) :
    formatXNN f x nn &&& 0xF000 = formatXNN f 0 0 := by
  show (f ++ BitVec.ofFin (w := 4) x ++ nn) &&& (0xF#4 ++ 0#4 ++ 0#8) = f ++ 0#4 ++ 0#8
  rw [BitVec.and_append, BitVec.and_append, BitVec.and_zero, BitVec.and_zero,
    show (0xF#4) = BitVec.allOnes 4 from rfl, BitVec.and_allOnes]

theorem formatXNN_masked_byte (f : BitVec 4) (x : Reg) (nn : Byte) :
    formatXNN f x nn &&& 0xF0FF = formatXNN f 0 nn := by
  show (f ++ BitVec.ofFin (w := 4) x ++ nn) &&& (0xF#4 ++ 0#4 ++ 0xFF#8) = f ++ 0#4 ++ nn
  rw [BitVec.and_append, BitVec.and_append, BitVec.and_zero,
    show (0xF#4) = BitVec.allOnes 4 from rfl, show (0xFF#8) = BitVec.allOnes 8 from rfl,
    BitVec.and_allOnes, BitVec.and_allOnes]

theorem formatXYN_masked (f : BitVec 4) (x y : Reg) (n : Fin 16) :
    formatXYN f x y n &&& 0xF000 = formatXYN f 0 0 0 := by
  show (f ++ BitVec.ofFin (w := 4) x ++ BitVec.ofFin (w := 4) y ++ BitVec.ofFin (w := 4) n) &&&
    (0xF#4 ++ 0#4 ++ 0#4 ++ 0#4) = f ++ 0#4 ++ 0#4 ++ 0#4
  rw [BitVec.and_append, BitVec.and_append, BitVec.and_append, BitVec.and_zero, BitVec.and_zero,
    BitVec.and_zero, show (0xF#4) = BitVec.allOnes 4 from rfl, BitVec.and_allOnes]

theorem formatXYN_masked_nibble (f : BitVec 4) (x y : Reg) (n : Fin 16) :
    formatXYN f x y n &&& 0xF00F = formatXYN f 0 0 n := by
  show (f ++ BitVec.ofFin (w := 4) x ++ BitVec.ofFin (w := 4) y ++ BitVec.ofFin (w := 4) n) &&&
    (0xF#4 ++ 0#4 ++ 0#4 ++ 0xF#4) = f ++ 0#4 ++ 0#4 ++ BitVec.ofFin (w := 4) n
  rw [BitVec.and_append, BitVec.and_append, BitVec.and_append, BitVec.and_zero, BitVec.and_zero,
    show (0xF#4) = BitVec.allOnes 4 from rfl, BitVec.and_allOnes, BitVec.and_allOnes]

/-- A word put together from its bytes, high byte first (20_memory.md R55). -/
theorem wordOfBytes_toNat (hi lo : Byte) : (wordOfBytes hi lo).toNat = hi.toNat * 256 + lo.toNat :=
  toNat_append_eq hi lo

/-- Taking a word apart and putting it together again. -/
theorem wordOfBytes_bytesOfWord (op : Word) :
    wordOfBytes (op.extractLsb 15 8) (op.extractLsb 7 0) = op := by
  apply BitVec.eq_of_toNat_eq
  have := op.isLt
  rw [wordOfBytes_toNat]
  simp only [BitVec.extractLsb_toNat, Nat.shiftRight_eq_div_pow]
  omega

/-- The host's word is decoded as the table numbers it. -/
theorem decodeTableWord_eq (nbits w : Nat) :
    decodeTableWord nbits w = (decode (BitVec.ofNat 16 (w % 2 ^ nbits))).toOption := by
  simp only [decodeTableWord, decodeBytes, bytesOfWord, wordOfBytes_bytesOfWord]
  cases decode (BitVec.ofNat 16 (w % 2 ^ nbits)) <;> rfl

end Sys2Proof
end

