-- ==== Sys2Proof/Laws/Memory.lean ====
section
/-! SUPPORT. The laws of memory: reading after writing, and the canonical form. -/

namespace Sys2Proof.Machine.Memory

theorem wfFrom_mono {m : Memory} {lo lo' : Nat} (h : wfFrom lo m = true) (hl : lo' ≤ lo) :
    wfFrom lo' m = true := by
  cases m with
  | nil => rfl
  | cons c m =>
    simp only [wfFrom, Bool.and_eq_true, decide_eq_true_eq] at h ⊢
    exact ⟨⟨⟨by omega, h.1.1.2⟩, h.1.2⟩, h.2⟩

/-- An address below every listed one is unlisted. -/
theorem read_of_lt {m : Memory} {lo a : Nat} (h : wfFrom lo m = true) (ha : a < lo) :
    read m a = unlisted a := by
  induction m generalizing lo with
  | nil => rfl
  | cons c m ih =>
    simp only [wfFrom, Bool.and_eq_true, decide_eq_true_eq] at h
    have hne : a ≠ c.1 := by omega
    simp only [read, hne, if_false]
    exact ih h.2 (by omega)

theorem read_write_from {m : Memory} {lo : Nat} (h : wfFrom lo m = true) (a c : Nat) (b : Byte) :
    read (write m a b) c = if c = a then b else read m c := by
  induction m generalizing lo with
  | nil =>
    by_cases hb : b = unlisted a <;> by_cases hc : c = a <;> simp_all [write, read]
  | cons e m ih =>
    obtain ⟨d, v⟩ := e
    have h0 := h
    simp only [wfFrom, Bool.and_eq_true, decide_eq_true_eq] at h
    rcases Nat.lt_trichotomy a d with h1 | h1 | h1
    · by_cases h2 : b = unlisted a
      · subst h2
        by_cases hc : c = a
        · subst hc
          have : c ≠ d := by omega
          simp [write, h1, read, this, read_of_lt h.2 (show c < d + 1 by omega)]
        · simp [write, h1, hc]
      · by_cases hc : c = a <;> simp [write, h1, h2, read, hc]
    · subst h1
      by_cases h2 : b = unlisted a
      · subst h2
        by_cases hc : c = a
        · subst hc
          simp [write, read_of_lt h.2 (show c < c + 1 by omega)]
        · simp [write, read, hc]
      · by_cases hc : c = a <;> simp [write, h2, read, hc]
    · have hn : ¬ a < d := by omega
      have hne : a ≠ d := by omega
      simp only [write, hn, hne, if_false]
      by_cases hc : c = d
      · subst hc
        have : c ≠ a := by omega
        simp [read, this]
      · simp only [read, hc, if_false]
        exact ih h.2

/-- A read after a write (20_memory.md R58, R62). -/
theorem read_write {m : Memory} (h : m.wf = true) (a c : Nat) (b : Byte) :
    (m.write a b).read c = if c = a then b else m.read c :=
  read_write_from h a c b

theorem wfFrom_write {m : Memory} {lo a : Nat} (h : wfFrom lo m = true) (b : Byte) (hl : lo ≤ a)
    (ha : a < Config.memSize) : wfFrom lo (write m a b) = true := by
  induction m generalizing lo with
  | nil =>
    by_cases hb : b = unlisted a <;> simp [write, wfFrom, hb, hl, ha]
  | cons e m ih =>
    obtain ⟨d, v⟩ := e
    have h0 := h
    simp only [wfFrom, Bool.and_eq_true, decide_eq_true_eq] at h
    simp only [write]
    split_ifs with h1 h2 h3 h4
    · exact h0
    · simp only [wfFrom, Bool.and_eq_true, decide_eq_true_eq]
      exact ⟨⟨⟨hl, ha⟩, by simpa using h2⟩, ⟨⟨by omega, h.1.1.2⟩, h.1.2⟩, h.2⟩
    · exact wfFrom_mono h.2 (by omega)
    · simp only [wfFrom, Bool.and_eq_true, decide_eq_true_eq]
      subst h3
      exact ⟨⟨⟨hl, ha⟩, by simpa using h4⟩, h.2⟩
    · simp only [wfFrom, Bool.and_eq_true, decide_eq_true_eq]
      exact ⟨⟨⟨h.1.1.1, h.1.1.2⟩, h.1.2⟩, ih h.2 (by omega)⟩

/-- A write inside the address space keeps the canonical form. -/
theorem wf_write {m : Memory} {a : Nat} (h : m.wf = true) (b : Byte) (ha : a < Config.memSize) :
    (m.write a b).wf = true :=
  wfFrom_write h b (Nat.zero_le _) ha

/-- A run of writes inside the address space keeps the canonical form. -/
theorem wf_writeBytes {m : Memory} {a : Nat} {bs : List Byte} (h : m.wf = true)
    (ha : a + bs.length ≤ Config.memSize) : (m.writeBytes a bs).wf = true := by
  induction bs generalizing m a with
  | nil => exact h
  | cons b bs ih =>
    simp only [List.length_cons] at ha
    exact ih (wf_write h b (by omega)) (by omega)

/-- A read after a run of writes: the bytes written, and every other address as before. -/
theorem read_writeBytes {m : Memory} {a : Nat} {bs : List Byte} (h : m.wf = true)
    (ha : a + bs.length ≤ Config.memSize) (c : Nat) :
    (m.writeBytes a bs).read c =
      if a ≤ c ∧ c < a + bs.length then bs.getD (c - a) 0 else m.read c := by
  induction bs generalizing m a with
  | nil =>
    simp [writeBytes]
  | cons b bs ih =>
    simp only [List.length_cons] at ha
    rw [writeBytes, ih (wf_write h b (by omega)) (by omega), read_write h]
    by_cases hc : c = a
    · subst hc
      simp
    · by_cases h1 : a + 1 ≤ c ∧ c < a + 1 + bs.length
      · have h2 : a ≤ c ∧ c < a + (bs.length + 1) := by omega
        have h3 : c - a = (c - (a + 1)) + 1 := by omega
        simp [h1, h2, h3]
      · have h2 : ¬ (a ≤ c ∧ c < a + (bs.length + 1)) := by omega
        rw [if_neg h1, if_neg hc, List.length_cons, if_neg h2]

@[simp] theorem length_readBytes (m : Memory) (a n : Nat) : (m.readBytes a n).length = n := by
  induction n generalizing a with
  | zero => rfl
  | succ n ih => simp [readBytes, ih]

/-- The bytes read are those at the addresses from `a` up. -/
theorem getElem?_readBytes (m : Memory) (a n k : Nat) (h : k < n) :
    (m.readBytes a n)[k]? = some (m.read (a + k)) := by
  induction n generalizing a k with
  | zero => omega
  | succ n ih =>
    cases k with
    | zero => simp [readBytes]
    | succ k =>
      simp only [readBytes, List.getElem?_cons_succ]
      rw [ih (a + 1) k (by omega)]
      congr 2
      omega

/-- Memories in canonical form that read alike are equal data. -/
theorem eq_of_read_eq {m m' : Memory} {lo : Nat} (h : wfFrom lo m = true) (h' : wfFrom lo m' = true)
    (hr : ∀ a, read m a = read m' a) : m = m' := by
  induction m generalizing m' lo with
  | nil =>
    cases m' with
    | nil => rfl
    | cons e m' =>
      simp only [wfFrom, Bool.and_eq_true, bne_iff_ne] at h'
      have := hr e.1
      simp only [read, if_true] at this
      exact absurd this.symm h'.1.2
  | cons e m ih =>
    obtain ⟨d, v⟩ := e
    have h0 := h
    simp only [wfFrom, Bool.and_eq_true, decide_eq_true_eq, bne_iff_ne] at h
    cases m' with
    | nil =>
      have := hr d
      simp only [read, if_true] at this
      exact absurd this h.1.2
    | cons e' m' =>
      obtain ⟨d', v'⟩ := e'
      have h0' := h'
      simp only [wfFrom, Bool.and_eq_true, decide_eq_true_eq, bne_iff_ne] at h'
      have hd : d = d' := by
        by_contra hne
        rcases Nat.lt_or_gt_of_ne hne with hlt | hlt
        · have := hr d
          rw [read_of_lt (m := (d', v') :: m') (lo := d') (by simp [wfFrom, h']) hlt] at this
          simp only [read, if_true] at this
          exact h.1.2 this
        · have := hr d'
          rw [read_of_lt (m := (d, v) :: m) (lo := d) (by simp [wfFrom, h]) hlt] at this
          simp only [read, if_true] at this
          exact h'.1.2 this.symm
      subst hd
      have hv : v = v' := by simpa [read] using hr d
      subst hv
      have := ih h.2 h'.2 (fun a => by
        by_cases ha : a = d
        · subst ha
          rw [read_of_lt h.2 (by omega), read_of_lt h'.2 (by omega)]
        · simpa [read, ha] using hr a)
      rw [this]

end Sys2Proof.Machine.Memory
end

