-- ==== Sys2Proof/Laws/State.lean ====
section
/-! SUPPORT. One lemma per field and per read, for each named update of the state (Machine/Ops.lean). -/

namespace Sys2Proof.Machine

variable (s : State)

/-! ### `setV` -/

@[simp] theorem State.setV_mem (r : Reg) (b : Byte) : (s.setV r b).mem = s.mem := rfl
@[simp] theorem State.setV_v (r : Reg) (b : Byte) : (s.setV r b).v = s.v.set r b := rfl
@[simp] theorem State.setV_index (r : Reg) (b : Byte) : (s.setV r b).index = s.index := rfl
@[simp] theorem State.setV_pc (r : Reg) (b : Byte) : (s.setV r b).pc = s.pc := rfl
@[simp] theorem State.setV_stack (r : Reg) (b : Byte) : (s.setV r b).stack = s.stack := rfl
@[simp] theorem State.setV_sp (r : Reg) (b : Byte) : (s.setV r b).sp = s.sp := rfl
@[simp] theorem State.setV_disp (r : Reg) (b : Byte) : (s.setV r b).disp = s.disp := rfl
@[simp] theorem State.setV_dt (r : Reg) (b : Byte) : (s.setV r b).dt = s.dt := rfl
@[simp] theorem State.setV_st (r : Reg) (b : Byte) : (s.setV r b).st = s.st := rfl
@[simp] theorem State.setV_key (r : Reg) (b : Byte) : (s.setV r b).key = s.key := rfl
@[simp] theorem State.setV_latch (r : Reg) (b : Byte) : (s.setV r b).latch = s.latch := rfl
@[simp] theorem State.setV_quirks (r : Reg) (b : Byte) : (s.setV r b).quirks = s.quirks := rfl
@[simp] theorem State.setV_draws (r : Reg) (b : Byte) : (s.setV r b).draws = s.draws := rfl
theorem State.setV_getV (r : Reg) (b : Byte) (q : Reg) :
    (s.setV r b).getV q = if q = r then b else s.getV q := by
  simp [State.getV, State.setV, Vector.getElem_set, Fin.ext_iff, eq_comm]
@[simp] theorem State.setV_getV_same (r : Reg) (b : Byte) : (s.setV r b).getV r = b := by
  simp [State.setV_getV]
@[simp] theorem State.setV_getV_other (r q : Reg) (b : Byte) (h : q ≠ r) :
    (s.setV r b).getV q = s.getV q := by
  simp [State.setV_getV, h]
@[simp] theorem State.setV_getKey (r : Reg) (b : Byte) (k' : Key) :
    (s.setV r b).getKey k' = s.getKey k' := rfl
@[simp] theorem State.setV_readByte (r : Reg) (b : Byte) (a : Nat) :
    (s.setV r b).readByte a = s.readByte a := rfl
@[simp] theorem State.setV_pixel (r : Reg) (b : Byte) (x y : Nat) :
    (s.setV r b).pixel x y = s.pixel x y := rfl

/-! ### `setRegisters` -/

@[simp] theorem State.setRegisters_mem (w : Vector Byte 16) : (s.setRegisters w).mem = s.mem := rfl
@[simp] theorem State.setRegisters_v (w : Vector Byte 16) : (s.setRegisters w).v = w := rfl
@[simp] theorem State.setRegisters_index (w : Vector Byte 16) :
    (s.setRegisters w).index = s.index := rfl
@[simp] theorem State.setRegisters_pc (w : Vector Byte 16) : (s.setRegisters w).pc = s.pc := rfl
@[simp] theorem State.setRegisters_stack (w : Vector Byte 16) :
    (s.setRegisters w).stack = s.stack := rfl
@[simp] theorem State.setRegisters_sp (w : Vector Byte 16) : (s.setRegisters w).sp = s.sp := rfl
@[simp] theorem State.setRegisters_disp (w : Vector Byte 16) :
    (s.setRegisters w).disp = s.disp := rfl
@[simp] theorem State.setRegisters_dt (w : Vector Byte 16) : (s.setRegisters w).dt = s.dt := rfl
@[simp] theorem State.setRegisters_st (w : Vector Byte 16) : (s.setRegisters w).st = s.st := rfl
@[simp] theorem State.setRegisters_key (w : Vector Byte 16) : (s.setRegisters w).key = s.key := rfl
@[simp] theorem State.setRegisters_latch (w : Vector Byte 16) :
    (s.setRegisters w).latch = s.latch := rfl
@[simp] theorem State.setRegisters_quirks (w : Vector Byte 16) :
    (s.setRegisters w).quirks = s.quirks := rfl
@[simp] theorem State.setRegisters_draws (w : Vector Byte 16) :
    (s.setRegisters w).draws = s.draws := rfl
@[simp] theorem State.setRegisters_getV (w : Vector Byte 16) (q : Reg) :
    (s.setRegisters w).getV q = w[q] := rfl
@[simp] theorem State.setRegisters_getKey (w : Vector Byte 16) (k' : Key) :
    (s.setRegisters w).getKey k' = s.getKey k' := rfl
@[simp] theorem State.setRegisters_readByte (w : Vector Byte 16) (a : Nat) :
    (s.setRegisters w).readByte a = s.readByte a := rfl
@[simp] theorem State.setRegisters_pixel (w : Vector Byte 16) (x y : Nat) :
    (s.setRegisters w).pixel x y = s.pixel x y := rfl

/-! ### `setIndex` -/

@[simp] theorem State.setIndex_mem (w : Word) : (s.setIndex w).mem = s.mem := rfl
@[simp] theorem State.setIndex_v (w : Word) : (s.setIndex w).v = s.v := rfl
@[simp] theorem State.setIndex_index (w : Word) : (s.setIndex w).index = w := rfl
@[simp] theorem State.setIndex_pc (w : Word) : (s.setIndex w).pc = s.pc := rfl
@[simp] theorem State.setIndex_stack (w : Word) : (s.setIndex w).stack = s.stack := rfl
@[simp] theorem State.setIndex_sp (w : Word) : (s.setIndex w).sp = s.sp := rfl
@[simp] theorem State.setIndex_disp (w : Word) : (s.setIndex w).disp = s.disp := rfl
@[simp] theorem State.setIndex_dt (w : Word) : (s.setIndex w).dt = s.dt := rfl
@[simp] theorem State.setIndex_st (w : Word) : (s.setIndex w).st = s.st := rfl
@[simp] theorem State.setIndex_key (w : Word) : (s.setIndex w).key = s.key := rfl
@[simp] theorem State.setIndex_latch (w : Word) : (s.setIndex w).latch = s.latch := rfl
@[simp] theorem State.setIndex_quirks (w : Word) : (s.setIndex w).quirks = s.quirks := rfl
@[simp] theorem State.setIndex_draws (w : Word) : (s.setIndex w).draws = s.draws := rfl
@[simp] theorem State.setIndex_getV (w : Word) (q : Reg) :
    (s.setIndex w).getV q = s.getV q := rfl
@[simp] theorem State.setIndex_getKey (w : Word) (k' : Key) :
    (s.setIndex w).getKey k' = s.getKey k' := rfl
@[simp] theorem State.setIndex_readByte (w : Word) (a : Nat) :
    (s.setIndex w).readByte a = s.readByte a := rfl
@[simp] theorem State.setIndex_pixel (w : Word) (x y : Nat) :
    (s.setIndex w).pixel x y = s.pixel x y := rfl

/-! ### `setPc` -/

@[simp] theorem State.setPc_mem (w : Word) : (s.setPc w).mem = s.mem := rfl
@[simp] theorem State.setPc_v (w : Word) : (s.setPc w).v = s.v := rfl
@[simp] theorem State.setPc_index (w : Word) : (s.setPc w).index = s.index := rfl
@[simp] theorem State.setPc_pc (w : Word) : (s.setPc w).pc = w := rfl
@[simp] theorem State.setPc_stack (w : Word) : (s.setPc w).stack = s.stack := rfl
@[simp] theorem State.setPc_sp (w : Word) : (s.setPc w).sp = s.sp := rfl
@[simp] theorem State.setPc_disp (w : Word) : (s.setPc w).disp = s.disp := rfl
@[simp] theorem State.setPc_dt (w : Word) : (s.setPc w).dt = s.dt := rfl
@[simp] theorem State.setPc_st (w : Word) : (s.setPc w).st = s.st := rfl
@[simp] theorem State.setPc_key (w : Word) : (s.setPc w).key = s.key := rfl
@[simp] theorem State.setPc_latch (w : Word) : (s.setPc w).latch = s.latch := rfl
@[simp] theorem State.setPc_quirks (w : Word) : (s.setPc w).quirks = s.quirks := rfl
@[simp] theorem State.setPc_draws (w : Word) : (s.setPc w).draws = s.draws := rfl
@[simp] theorem State.setPc_getV (w : Word) (q : Reg) :
    (s.setPc w).getV q = s.getV q := rfl
@[simp] theorem State.setPc_getKey (w : Word) (k' : Key) :
    (s.setPc w).getKey k' = s.getKey k' := rfl
@[simp] theorem State.setPc_readByte (w : Word) (a : Nat) :
    (s.setPc w).readByte a = s.readByte a := rfl
@[simp] theorem State.setPc_pixel (w : Word) (x y : Nat) :
    (s.setPc w).pixel x y = s.pixel x y := rfl

/-! ### `advance` -/

@[simp] theorem State.advance_mem : (s.advance).mem = s.mem := rfl
@[simp] theorem State.advance_v : (s.advance).v = s.v := rfl
@[simp] theorem State.advance_index : (s.advance).index = s.index := rfl
@[simp] theorem State.advance_pc : (s.advance).pc = s.pc + 2 := rfl
@[simp] theorem State.advance_stack : (s.advance).stack = s.stack := rfl
@[simp] theorem State.advance_sp : (s.advance).sp = s.sp := rfl
@[simp] theorem State.advance_disp : (s.advance).disp = s.disp := rfl
@[simp] theorem State.advance_dt : (s.advance).dt = s.dt := rfl
@[simp] theorem State.advance_st : (s.advance).st = s.st := rfl
@[simp] theorem State.advance_key : (s.advance).key = s.key := rfl
@[simp] theorem State.advance_latch : (s.advance).latch = s.latch := rfl
@[simp] theorem State.advance_quirks : (s.advance).quirks = s.quirks := rfl
@[simp] theorem State.advance_draws : (s.advance).draws = s.draws := rfl
@[simp] theorem State.advance_getV (q : Reg) :
    (s.advance).getV q = s.getV q := rfl
@[simp] theorem State.advance_getKey (k' : Key) :
    (s.advance).getKey k' = s.getKey k' := rfl
@[simp] theorem State.advance_readByte (a : Nat) :
    (s.advance).readByte a = s.readByte a := rfl
@[simp] theorem State.advance_pixel (x y : Nat) :
    (s.advance).pixel x y = s.pixel x y := rfl

/-! ### `rewind` -/

@[simp] theorem State.rewind_mem : (s.rewind).mem = s.mem := rfl
@[simp] theorem State.rewind_v : (s.rewind).v = s.v := rfl
@[simp] theorem State.rewind_index : (s.rewind).index = s.index := rfl
@[simp] theorem State.rewind_pc : (s.rewind).pc = s.pc - 2 := rfl
@[simp] theorem State.rewind_stack : (s.rewind).stack = s.stack := rfl
@[simp] theorem State.rewind_sp : (s.rewind).sp = s.sp := rfl
@[simp] theorem State.rewind_disp : (s.rewind).disp = s.disp := rfl
@[simp] theorem State.rewind_dt : (s.rewind).dt = s.dt := rfl
@[simp] theorem State.rewind_st : (s.rewind).st = s.st := rfl
@[simp] theorem State.rewind_key : (s.rewind).key = s.key := rfl
@[simp] theorem State.rewind_latch : (s.rewind).latch = s.latch := rfl
@[simp] theorem State.rewind_quirks : (s.rewind).quirks = s.quirks := rfl
@[simp] theorem State.rewind_draws : (s.rewind).draws = s.draws := rfl
@[simp] theorem State.rewind_getV (q : Reg) :
    (s.rewind).getV q = s.getV q := rfl
@[simp] theorem State.rewind_getKey (k' : Key) :
    (s.rewind).getKey k' = s.getKey k' := rfl
@[simp] theorem State.rewind_readByte (a : Nat) :
    (s.rewind).readByte a = s.readByte a := rfl
@[simp] theorem State.rewind_pixel (x y : Nat) :
    (s.rewind).pixel x y = s.pixel x y := rfl

/-! ### `setStackEntry` -/

@[simp] theorem State.setStackEntry_mem (k : Fin 16) (w : Word) :
    (s.setStackEntry k w).mem = s.mem := rfl
@[simp] theorem State.setStackEntry_v (k : Fin 16) (w : Word) : (s.setStackEntry k w).v = s.v := rfl
@[simp] theorem State.setStackEntry_index (k : Fin 16) (w : Word) :
    (s.setStackEntry k w).index = s.index := rfl
@[simp] theorem State.setStackEntry_pc (k : Fin 16) (w : Word) :
    (s.setStackEntry k w).pc = s.pc := rfl
@[simp] theorem State.setStackEntry_stack (k : Fin 16) (w : Word) :
    (s.setStackEntry k w).stack = s.stack.set k w := rfl
@[simp] theorem State.setStackEntry_sp (k : Fin 16) (w : Word) :
    (s.setStackEntry k w).sp = s.sp := rfl
@[simp] theorem State.setStackEntry_disp (k : Fin 16) (w : Word) :
    (s.setStackEntry k w).disp = s.disp := rfl
@[simp] theorem State.setStackEntry_dt (k : Fin 16) (w : Word) :
    (s.setStackEntry k w).dt = s.dt := rfl
@[simp] theorem State.setStackEntry_st (k : Fin 16) (w : Word) :
    (s.setStackEntry k w).st = s.st := rfl
@[simp] theorem State.setStackEntry_key (k : Fin 16) (w : Word) :
    (s.setStackEntry k w).key = s.key := rfl
@[simp] theorem State.setStackEntry_latch (k : Fin 16) (w : Word) :
    (s.setStackEntry k w).latch = s.latch := rfl
@[simp] theorem State.setStackEntry_quirks (k : Fin 16) (w : Word) :
    (s.setStackEntry k w).quirks = s.quirks := rfl
@[simp] theorem State.setStackEntry_draws (k : Fin 16) (w : Word) :
    (s.setStackEntry k w).draws = s.draws := rfl
@[simp] theorem State.setStackEntry_getV (k : Fin 16) (w : Word) (q : Reg) :
    (s.setStackEntry k w).getV q = s.getV q := rfl
@[simp] theorem State.setStackEntry_getKey (k : Fin 16) (w : Word) (k' : Key) :
    (s.setStackEntry k w).getKey k' = s.getKey k' := rfl
@[simp] theorem State.setStackEntry_readByte (k : Fin 16) (w : Word) (a : Nat) :
    (s.setStackEntry k w).readByte a = s.readByte a := rfl
@[simp] theorem State.setStackEntry_pixel (k : Fin 16) (w : Word) (x y : Nat) :
    (s.setStackEntry k w).pixel x y = s.pixel x y := rfl

/-! ### `setSp` -/

@[simp] theorem State.setSp_mem (n : Fin 17) : (s.setSp n).mem = s.mem := rfl
@[simp] theorem State.setSp_v (n : Fin 17) : (s.setSp n).v = s.v := rfl
@[simp] theorem State.setSp_index (n : Fin 17) : (s.setSp n).index = s.index := rfl
@[simp] theorem State.setSp_pc (n : Fin 17) : (s.setSp n).pc = s.pc := rfl
@[simp] theorem State.setSp_stack (n : Fin 17) : (s.setSp n).stack = s.stack := rfl
@[simp] theorem State.setSp_sp (n : Fin 17) : (s.setSp n).sp = n := rfl
@[simp] theorem State.setSp_disp (n : Fin 17) : (s.setSp n).disp = s.disp := rfl
@[simp] theorem State.setSp_dt (n : Fin 17) : (s.setSp n).dt = s.dt := rfl
@[simp] theorem State.setSp_st (n : Fin 17) : (s.setSp n).st = s.st := rfl
@[simp] theorem State.setSp_key (n : Fin 17) : (s.setSp n).key = s.key := rfl
@[simp] theorem State.setSp_latch (n : Fin 17) : (s.setSp n).latch = s.latch := rfl
@[simp] theorem State.setSp_quirks (n : Fin 17) : (s.setSp n).quirks = s.quirks := rfl
@[simp] theorem State.setSp_draws (n : Fin 17) : (s.setSp n).draws = s.draws := rfl
@[simp] theorem State.setSp_getV (n : Fin 17) (q : Reg) :
    (s.setSp n).getV q = s.getV q := rfl
@[simp] theorem State.setSp_getKey (n : Fin 17) (k' : Key) :
    (s.setSp n).getKey k' = s.getKey k' := rfl
@[simp] theorem State.setSp_readByte (n : Fin 17) (a : Nat) :
    (s.setSp n).readByte a = s.readByte a := rfl
@[simp] theorem State.setSp_pixel (n : Fin 17) (x y : Nat) :
    (s.setSp n).pixel x y = s.pixel x y := rfl

/-! ### `setMem` -/

@[simp] theorem State.setMem_mem (m : Memory) : (s.setMem m).mem = m := rfl
@[simp] theorem State.setMem_v (m : Memory) : (s.setMem m).v = s.v := rfl
@[simp] theorem State.setMem_index (m : Memory) : (s.setMem m).index = s.index := rfl
@[simp] theorem State.setMem_pc (m : Memory) : (s.setMem m).pc = s.pc := rfl
@[simp] theorem State.setMem_stack (m : Memory) : (s.setMem m).stack = s.stack := rfl
@[simp] theorem State.setMem_sp (m : Memory) : (s.setMem m).sp = s.sp := rfl
@[simp] theorem State.setMem_disp (m : Memory) : (s.setMem m).disp = s.disp := rfl
@[simp] theorem State.setMem_dt (m : Memory) : (s.setMem m).dt = s.dt := rfl
@[simp] theorem State.setMem_st (m : Memory) : (s.setMem m).st = s.st := rfl
@[simp] theorem State.setMem_key (m : Memory) : (s.setMem m).key = s.key := rfl
@[simp] theorem State.setMem_latch (m : Memory) : (s.setMem m).latch = s.latch := rfl
@[simp] theorem State.setMem_quirks (m : Memory) : (s.setMem m).quirks = s.quirks := rfl
@[simp] theorem State.setMem_draws (m : Memory) : (s.setMem m).draws = s.draws := rfl
@[simp] theorem State.setMem_getV (m : Memory) (q : Reg) :
    (s.setMem m).getV q = s.getV q := rfl
@[simp] theorem State.setMem_getKey (m : Memory) (k' : Key) :
    (s.setMem m).getKey k' = s.getKey k' := rfl
@[simp] theorem State.setMem_readByte (m : Memory) (a : Nat) :
    (s.setMem m).readByte a = m.read a := rfl
@[simp] theorem State.setMem_pixel (m : Memory) (x y : Nat) :
    (s.setMem m).pixel x y = s.pixel x y := rfl

/-! ### `setDt` -/

@[simp] theorem State.setDt_mem (b : Byte) : (s.setDt b).mem = s.mem := rfl
@[simp] theorem State.setDt_v (b : Byte) : (s.setDt b).v = s.v := rfl
@[simp] theorem State.setDt_index (b : Byte) : (s.setDt b).index = s.index := rfl
@[simp] theorem State.setDt_pc (b : Byte) : (s.setDt b).pc = s.pc := rfl
@[simp] theorem State.setDt_stack (b : Byte) : (s.setDt b).stack = s.stack := rfl
@[simp] theorem State.setDt_sp (b : Byte) : (s.setDt b).sp = s.sp := rfl
@[simp] theorem State.setDt_disp (b : Byte) : (s.setDt b).disp = s.disp := rfl
@[simp] theorem State.setDt_dt (b : Byte) : (s.setDt b).dt = b := rfl
@[simp] theorem State.setDt_st (b : Byte) : (s.setDt b).st = s.st := rfl
@[simp] theorem State.setDt_key (b : Byte) : (s.setDt b).key = s.key := rfl
@[simp] theorem State.setDt_latch (b : Byte) : (s.setDt b).latch = s.latch := rfl
@[simp] theorem State.setDt_quirks (b : Byte) : (s.setDt b).quirks = s.quirks := rfl
@[simp] theorem State.setDt_draws (b : Byte) : (s.setDt b).draws = s.draws := rfl
@[simp] theorem State.setDt_getV (b : Byte) (q : Reg) :
    (s.setDt b).getV q = s.getV q := rfl
@[simp] theorem State.setDt_getKey (b : Byte) (k' : Key) :
    (s.setDt b).getKey k' = s.getKey k' := rfl
@[simp] theorem State.setDt_readByte (b : Byte) (a : Nat) :
    (s.setDt b).readByte a = s.readByte a := rfl
@[simp] theorem State.setDt_pixel (b : Byte) (x y : Nat) :
    (s.setDt b).pixel x y = s.pixel x y := rfl

/-! ### `setSt` -/

@[simp] theorem State.setSt_mem (b : Byte) : (s.setSt b).mem = s.mem := rfl
@[simp] theorem State.setSt_v (b : Byte) : (s.setSt b).v = s.v := rfl
@[simp] theorem State.setSt_index (b : Byte) : (s.setSt b).index = s.index := rfl
@[simp] theorem State.setSt_pc (b : Byte) : (s.setSt b).pc = s.pc := rfl
@[simp] theorem State.setSt_stack (b : Byte) : (s.setSt b).stack = s.stack := rfl
@[simp] theorem State.setSt_sp (b : Byte) : (s.setSt b).sp = s.sp := rfl
@[simp] theorem State.setSt_disp (b : Byte) : (s.setSt b).disp = s.disp := rfl
@[simp] theorem State.setSt_dt (b : Byte) : (s.setSt b).dt = s.dt := rfl
@[simp] theorem State.setSt_st (b : Byte) : (s.setSt b).st = b := rfl
@[simp] theorem State.setSt_key (b : Byte) : (s.setSt b).key = s.key := rfl
@[simp] theorem State.setSt_latch (b : Byte) : (s.setSt b).latch = s.latch := rfl
@[simp] theorem State.setSt_quirks (b : Byte) : (s.setSt b).quirks = s.quirks := rfl
@[simp] theorem State.setSt_draws (b : Byte) : (s.setSt b).draws = s.draws := rfl
@[simp] theorem State.setSt_getV (b : Byte) (q : Reg) :
    (s.setSt b).getV q = s.getV q := rfl
@[simp] theorem State.setSt_getKey (b : Byte) (k' : Key) :
    (s.setSt b).getKey k' = s.getKey k' := rfl
@[simp] theorem State.setSt_readByte (b : Byte) (a : Nat) :
    (s.setSt b).readByte a = s.readByte a := rfl
@[simp] theorem State.setSt_pixel (b : Byte) (x y : Nat) :
    (s.setSt b).pixel x y = s.pixel x y := rfl

/-! ### `setLatch` -/

@[simp] theorem State.setLatch_mem (l : Option Key) : (s.setLatch l).mem = s.mem := rfl
@[simp] theorem State.setLatch_v (l : Option Key) : (s.setLatch l).v = s.v := rfl
@[simp] theorem State.setLatch_index (l : Option Key) : (s.setLatch l).index = s.index := rfl
@[simp] theorem State.setLatch_pc (l : Option Key) : (s.setLatch l).pc = s.pc := rfl
@[simp] theorem State.setLatch_stack (l : Option Key) : (s.setLatch l).stack = s.stack := rfl
@[simp] theorem State.setLatch_sp (l : Option Key) : (s.setLatch l).sp = s.sp := rfl
@[simp] theorem State.setLatch_disp (l : Option Key) : (s.setLatch l).disp = s.disp := rfl
@[simp] theorem State.setLatch_dt (l : Option Key) : (s.setLatch l).dt = s.dt := rfl
@[simp] theorem State.setLatch_st (l : Option Key) : (s.setLatch l).st = s.st := rfl
@[simp] theorem State.setLatch_key (l : Option Key) : (s.setLatch l).key = s.key := rfl
@[simp] theorem State.setLatch_latch (l : Option Key) : (s.setLatch l).latch = l := rfl
@[simp] theorem State.setLatch_quirks (l : Option Key) : (s.setLatch l).quirks = s.quirks := rfl
@[simp] theorem State.setLatch_draws (l : Option Key) : (s.setLatch l).draws = s.draws := rfl
@[simp] theorem State.setLatch_getV (l : Option Key) (q : Reg) :
    (s.setLatch l).getV q = s.getV q := rfl
@[simp] theorem State.setLatch_getKey (l : Option Key) (k' : Key) :
    (s.setLatch l).getKey k' = s.getKey k' := rfl
@[simp] theorem State.setLatch_readByte (l : Option Key) (a : Nat) :
    (s.setLatch l).readByte a = s.readByte a := rfl
@[simp] theorem State.setLatch_pixel (l : Option Key) (x y : Nat) :
    (s.setLatch l).pixel x y = s.pixel x y := rfl

/-! ### `setKeyState` -/

@[simp] theorem State.setKeyState_mem (k : Key) (u : KeyState) :
    (s.setKeyState k u).mem = s.mem := rfl
@[simp] theorem State.setKeyState_v (k : Key) (u : KeyState) : (s.setKeyState k u).v = s.v := rfl
@[simp] theorem State.setKeyState_index (k : Key) (u : KeyState) :
    (s.setKeyState k u).index = s.index := rfl
@[simp] theorem State.setKeyState_pc (k : Key) (u : KeyState) : (s.setKeyState k u).pc = s.pc := rfl
@[simp] theorem State.setKeyState_stack (k : Key) (u : KeyState) :
    (s.setKeyState k u).stack = s.stack := rfl
@[simp] theorem State.setKeyState_sp (k : Key) (u : KeyState) : (s.setKeyState k u).sp = s.sp := rfl
@[simp] theorem State.setKeyState_disp (k : Key) (u : KeyState) :
    (s.setKeyState k u).disp = s.disp := rfl
@[simp] theorem State.setKeyState_dt (k : Key) (u : KeyState) : (s.setKeyState k u).dt = s.dt := rfl
@[simp] theorem State.setKeyState_st (k : Key) (u : KeyState) : (s.setKeyState k u).st = s.st := rfl
@[simp] theorem State.setKeyState_key (k : Key) (u : KeyState) :
    (s.setKeyState k u).key = s.key.set k u := rfl
@[simp] theorem State.setKeyState_latch (k : Key) (u : KeyState) :
    (s.setKeyState k u).latch = s.latch := rfl
@[simp] theorem State.setKeyState_quirks (k : Key) (u : KeyState) :
    (s.setKeyState k u).quirks = s.quirks := rfl
@[simp] theorem State.setKeyState_draws (k : Key) (u : KeyState) :
    (s.setKeyState k u).draws = s.draws := rfl
@[simp] theorem State.setKeyState_getV (k : Key) (u : KeyState) (q : Reg) :
    (s.setKeyState k u).getV q = s.getV q := rfl
theorem State.setKeyState_getKey (k : Key) (u : KeyState) (q : Key) :
    (s.setKeyState k u).getKey q = if q = k then u else s.getKey q := by
  simp [State.getKey, State.setKeyState, Vector.getElem_set, Fin.ext_iff, eq_comm]
@[simp] theorem State.setKeyState_readByte (k : Key) (u : KeyState) (a : Nat) :
    (s.setKeyState k u).readByte a = s.readByte a := rfl
@[simp] theorem State.setKeyState_pixel (k : Key) (u : KeyState) (x y : Nat) :
    (s.setKeyState k u).pixel x y = s.pixel x y := rfl

/-! ### `setDisp` -/

@[simp] theorem State.setDisp_mem (d : Screen) : (s.setDisp d).mem = s.mem := rfl
@[simp] theorem State.setDisp_v (d : Screen) : (s.setDisp d).v = s.v := rfl
@[simp] theorem State.setDisp_index (d : Screen) : (s.setDisp d).index = s.index := rfl
@[simp] theorem State.setDisp_pc (d : Screen) : (s.setDisp d).pc = s.pc := rfl
@[simp] theorem State.setDisp_stack (d : Screen) : (s.setDisp d).stack = s.stack := rfl
@[simp] theorem State.setDisp_sp (d : Screen) : (s.setDisp d).sp = s.sp := rfl
@[simp] theorem State.setDisp_disp (d : Screen) : (s.setDisp d).disp = d := rfl
@[simp] theorem State.setDisp_dt (d : Screen) : (s.setDisp d).dt = s.dt := rfl
@[simp] theorem State.setDisp_st (d : Screen) : (s.setDisp d).st = s.st := rfl
@[simp] theorem State.setDisp_key (d : Screen) : (s.setDisp d).key = s.key := rfl
@[simp] theorem State.setDisp_latch (d : Screen) : (s.setDisp d).latch = s.latch := rfl
@[simp] theorem State.setDisp_quirks (d : Screen) : (s.setDisp d).quirks = s.quirks := rfl
@[simp] theorem State.setDisp_draws (d : Screen) : (s.setDisp d).draws = s.draws := rfl
@[simp] theorem State.setDisp_getV (d : Screen) (q : Reg) :
    (s.setDisp d).getV q = s.getV q := rfl
@[simp] theorem State.setDisp_getKey (d : Screen) (k' : Key) :
    (s.setDisp d).getKey k' = s.getKey k' := rfl
@[simp] theorem State.setDisp_readByte (d : Screen) (a : Nat) :
    (s.setDisp d).readByte a = s.readByte a := rfl
@[simp] theorem State.setDisp_pixel (d : Screen) (x y : Nat) :
    (s.setDisp d).pixel x y = d.pixel x y := rfl

/-! ### `nextDraw` -/

@[simp] theorem State.nextDraw_mem : (s.nextDraw).mem = s.mem := rfl
@[simp] theorem State.nextDraw_v : (s.nextDraw).v = s.v := rfl
@[simp] theorem State.nextDraw_index : (s.nextDraw).index = s.index := rfl
@[simp] theorem State.nextDraw_pc : (s.nextDraw).pc = s.pc := rfl
@[simp] theorem State.nextDraw_stack : (s.nextDraw).stack = s.stack := rfl
@[simp] theorem State.nextDraw_sp : (s.nextDraw).sp = s.sp := rfl
@[simp] theorem State.nextDraw_disp : (s.nextDraw).disp = s.disp := rfl
@[simp] theorem State.nextDraw_dt : (s.nextDraw).dt = s.dt := rfl
@[simp] theorem State.nextDraw_st : (s.nextDraw).st = s.st := rfl
@[simp] theorem State.nextDraw_key : (s.nextDraw).key = s.key := rfl
@[simp] theorem State.nextDraw_latch : (s.nextDraw).latch = s.latch := rfl
@[simp] theorem State.nextDraw_quirks : (s.nextDraw).quirks = s.quirks := rfl
@[simp] theorem State.nextDraw_draws : (s.nextDraw).draws = s.draws + 1 := rfl
@[simp] theorem State.nextDraw_getV (q : Reg) :
    (s.nextDraw).getV q = s.getV q := rfl
@[simp] theorem State.nextDraw_getKey (k' : Key) :
    (s.nextDraw).getKey k' = s.getKey k' := rfl
@[simp] theorem State.nextDraw_readByte (a : Nat) :
    (s.nextDraw).readByte a = s.readByte a := rfl
@[simp] theorem State.nextDraw_pixel (x y : Nat) :
    (s.nextDraw).pixel x y = s.pixel x y := rfl

/-! ### The reset state -/

@[simp] theorem State.initial_getV (q : Quirks) (m : Memory) (n : Nat) (r : Reg) :
    (State.initial q m n).getV r = 0 := by
  simp [State.initial, State.getV]
@[simp] theorem State.initial_getKey (q : Quirks) (m : Memory) (n : Nat) (k : Key) :
    (State.initial q m n).getKey k = .up := by
  simp [State.initial, State.getKey]
@[simp] theorem State.initial_pixel (q : Quirks) (m : Memory) (n : Nat) (x y : Nat) :
    (State.initial q m n).pixel x y = false := by
  simp [State.initial, State.pixel, Screen.pixel]
@[simp] theorem State.initial_readByte (q : Quirks) (m : Memory) (n : Nat) (a : Nat) :
    (State.initial q m n).readByte a = m.read a := rfl
@[simp] theorem State.initial_mem (q : Quirks) (m : Memory) (n : Nat) :
    (State.initial q m n).mem = m := rfl
@[simp] theorem State.initial_quirks (q : Quirks) (m : Memory) (n : Nat) :
    (State.initial q m n).quirks = q := rfl
@[simp] theorem State.initial_latch (q : Quirks) (m : Memory) (n : Nat) :
    (State.initial q m n).latch = none := rfl
@[simp] theorem State.initial_draws (q : Quirks) (m : Memory) (n : Nat) :
    (State.initial q m n).draws = n := rfl

end Sys2Proof.Machine
end

