-- ==== Sys2Proof/Laws/Ops.lean ====
section
/-! SUPPORT. What each shared operation and operand form can do, said once. -/

namespace Sys2Proof.Machine

/-! ### Raising or going on -/

@[simp] theorem orRaise_ok {α : Type} (a : α) (k : α → Outcome) : orRaise (.ok a) k = k a := rfl

@[simp] theorem orRaise_error {α : Type} (f : Fault) (k : α → Outcome) :
    orRaise (.error f) k = .fault f := rfl

theorem orRaise_next {α : Type} {r : Except Fault α} {k : α → Outcome} {t : State}
    (h : orRaise r k = .next t) : ∃ a, r = .ok a ∧ k a = .next t := by
  cases r with
  | ok a => exact ⟨a, rfl, h⟩
  | error f => cases h

theorem orRaise_fault {α : Type} {r : Except Fault α} {k : α → Outcome} {f : Fault}
    (h : orRaise r k = .fault f) : r = .error f ∨ ∃ a, r = .ok a ∧ k a = .fault f := by
  cases r with
  | ok a => exact .inr ⟨a, rfl, h⟩
  | error g => cases h; exact .inl rfl

/-! ### Skips -/

theorem skipIf_eq (c : Bool) (s : State) : skipIf c s = s.setPc (if c then s.pc + 2 else s.pc) := by
  cases c <;> rfl

@[simp] theorem skipIf_true (s : State) : skipIf true s = s.advance := rfl
@[simp] theorem skipIf_false (s : State) : skipIf false s = s := rfl

/-! ### `MemRead` and `MemWrite` -/

theorem memRead_inside (s : State) {a n : Nat} (h : a + n - 1 ≤ 0xFFF) :
    memRead s a n = .ok (s.mem.readBytes a n) := by
  simp [memRead, Nat.not_lt.mpr h]

theorem memRead_outside (s : State) {a n : Nat} (h : 0xFFF < a + n - 1) :
    memRead s a n = .error (.addressOutOfRange (max a 0x1000) s) := by
  simp [memRead, h]

theorem memWrite_outside (s : State) {a : Nat} {v : List Byte} (h : 0xFFF < a + v.length - 1) :
    memWrite s a v = .error (.addressOutOfRange (max a 0x1000) s) := by
  simp [memWrite, h]

theorem memWrite_font (s : State) {a : Nat} {v : List Byte} (h : a + v.length - 1 ≤ 0xFFF)
    (hf : a < 80) (hv : v ≠ []) : memWrite s a v = .error (.fontWrite a s) := by
  have hl : 0 < v.length := List.length_pos_iff.mpr hv
  have hm : meetsFont a v.length = true := by
    simp [meetsFont, fontBase, Config.fontSize]
    omega
  simp [memWrite, Nat.not_lt.mpr h, hm, fontBase]

theorem memWrite_inside (s : State) {a : Nat} {v : List Byte} (h : a + v.length - 1 ≤ 0xFFF)
    (hf : 80 ≤ a) : memWrite s a v = .ok (s.setMem (s.mem.writeBytes a v)) := by
  have hm : meetsFont a v.length = false := by
    simp [meetsFont, fontBase, Config.fontSize]
    omega
  simp [memWrite, Nat.not_lt.mpr h, hm]

/-! ### Fetch -/

theorem fetch_inside (s : State) (h : s.pc.toNat ≤ 0xFFE) :
    fetch s = .ok (wordOfBytes (s.readByte s.pc.toNat) (s.readByte (s.pc.toNat + 1))) := by
  simp [fetch, memRead_inside s (show s.pc.toNat + 2 - 1 ≤ 0xFFF by omega), State.readByte,
    Memory.readBytes]

theorem fetch_outside (s : State) (h : 0xFFE < s.pc.toNat) :
    fetch s = .error (.addressOutOfRange (max s.pc.toNat 0x1000) s) := by
  simp [fetch, memRead_outside s (show 0xFFF < s.pc.toNat + 2 - 1 by omega)]

/-! ### Call stack -/

theorem pushReturn_room (s : State) (h : s.sp.val < 16) :
    pushReturn s =
      .ok ((s.setStackEntry ⟨s.sp.val, h⟩ s.pc).setSp ⟨s.sp.val + 1, by omega⟩) := by
  simp [pushReturn, h]

theorem pushReturn_full (s : State) (h : s.sp.val = 16) : pushReturn s = .error (.stackOverflow s) := by
  simp [pushReturn, h]

theorem popReturn_entry (s : State) (h : s.sp.val ≠ 0) :
    popReturn s = .ok ((s.setPc s.stack[s.sp.val - 1]).setSp ⟨s.sp.val - 1, by omega⟩) := by
  simp only [popReturn, h, dite_false]

theorem popReturn_empty (s : State) (h : s.sp.val = 0) :
    popReturn s = .error (.stackUnderflow s) := by
  simp [popReturn, h]

/-! ### Keys -/

theorem keyOperand_key (x : Reg) (s : State) (h : (s.getV x).toNat < 16) :
    keyOperand x s = .ok ⟨(s.getV x).toNat, h⟩ := by
  simp [keyOperand, h]

theorem keyOperand_none (x : Reg) (s : State) (h : 16 ≤ (s.getV x).toNat) :
    keyOperand x s = .error (.keyIndexOutOfRange (s.getV x) s) := by
  simp [keyOperand, Nat.not_lt.mpr h]

theorem lowestKeyDown_none (s : State) :
    lowestKeyDown s = none ↔ ∀ k : Key, s.getKey k = .up := by
  simp only [lowestKeyDown, List.find?_eq_none, List.mem_finRange, forall_const, beq_iff_eq]
  refine forall_congr' fun k => ?_
  cases s.getKey k <;> simp

theorem lowestKeyDown_some {s : State} {k : Key} (hk : s.getKey k = .down)
    (hl : ∀ j : Key, j < k → s.getKey j = .up) : lowestKeyDown s = some k := by
  cases h : lowestKeyDown s with
  | none =>
    rw [lowestKeyDown_none] at h
    rw [h k] at hk
    cases hk
  | some j =>
    obtain ⟨hj, as, bs, hab, has⟩ := List.find?_eq_some_iff_append.mp h
    have hjd : s.getKey j = .down := by simpa using hj
    rcases lt_trichotomy j k with hlt | heq | hgt
    · rw [hl j hlt] at hjd
      cases hjd
    · rw [heq]
    · have hmem : k ∈ as ++ j :: bs := hab ▸ List.mem_finRange k
      have hsorted : (as ++ j :: bs).Pairwise (· < ·) := by
        rw [← hab]
        exact List.pairwise_lt_finRange 16
      rcases List.mem_append.mp hmem with hka | hkb
      · have := has k hka
        simp [hk] at this
      · rcases List.mem_cons.mp hkb with hkj | hkb
        · rw [hkj]
        · have := (List.pairwise_cons.mp (List.pairwise_append.mp hsorted).2.1).1 k hkb
          exact absurd (lt_trans this hgt) (lt_irrefl _)

/-! ### Registers in a run -/

@[simp] theorem length_registersUpTo (x : Reg) (s : State) :
    (registersUpTo x s).length = x.val + 1 := by
  simp [registersUpTo]

theorem getD_registersUpTo (x r : Reg) (s : State) (h : r.val ≤ x.val) :
    (registersUpTo x s).getD r.val 0 = s.getV r := by
  simp [registersUpTo, State.getV, Nat.lt_succ_of_le h]

@[simp] theorem loadRegisters_getV (b : List Byte) (s : State) (r : Reg) :
    (loadRegisters b s).getV r = (b[r.val]?).getD (s.getV r) := by
  simp [loadRegisters, State.getV]

/-- The quirk's advance of the index register, as one update. -/
theorem advanceIndexIfQuirk_eq (x : Reg) (s : State) :
    advanceIndexIfQuirk x s =
      s.setIndex (if s.quirks.memory then s.index + BitVec.ofNat 16 (x.val + 1) else s.index) := by
  simp only [advanceIndexIfQuirk]
  split <;> rfl

/-! ### Display -/

theorem Screen.pixel_toggle (d : Screen) (x y : Nat) (p : Fin 64) (q : Fin 32) :
    (d.toggle x y).pixel p.val q.val =
      if p.val = x % 64 ∧ q.val = y % 32 then !d.pixel p.val q.val else d.pixel p.val q.val := by
  have hp : p.val % 64 = p.val := Nat.mod_eq_of_lt p.isLt
  have hq : q.val % 32 = q.val := Nat.mod_eq_of_lt q.isLt
  simp only [Screen.pixel, Screen.toggle, hp, hq, Vector.getElem_set]
  by_cases h1 : y % 32 = q.val
  · by_cases h2 : x % 64 = p.val
    · simp [h1, h2]
    · have : p.val ≠ x % 64 := fun h => h2 h.symm
      simp [h1, h2, this]
  · have : q.val ≠ y % 32 := fun h => h1 h.symm
    simp [h1, this]

@[simp] theorem Screen.pixel_blank (x y : Nat) : Screen.blank.pixel x y = false := by
  simp [Screen.blank, Screen.pixel]

theorem Screen.pixel_mod (d : Screen) (x y : Nat) : d.pixel (x % 64) (y % 32) = d.pixel x y := by
  simp [Screen.pixel]

end Sys2Proof.Machine
end

