-- ==== Sys2Proof/Laws/Display.lean ====
section
/-! SUPPORT. What the rasterizer's loops do: each toggles a set of pixels, all different, and records
whether one of them was set. -/

namespace Sys2Proof.Machine

/-- From `r` to `r'` exactly the pixels of `A` are toggled, and a set one among them is recorded. -/
structure Toggles (A : Fin 64 → Fin 32 → Prop) (r r' : Raster) : Prop where
  inside : ∀ p q, A p q → r'.disp.pixel p.val q.val = !r.disp.pixel p.val q.val
  outside : ∀ p q, ¬ A p q → r'.disp.pixel p.val q.val = r.disp.pixel p.val q.val
  hit : r'.hit = true ↔ r.hit = true ∨ ∃ p q, A p q ∧ r.disp.pixel p.val q.val = true

theorem Toggles.congr {A B : Fin 64 → Fin 32 → Prop} {r r' : Raster} (h : Toggles A r r')
    (hab : ∀ p q, B p q ↔ A p q) : Toggles B r r' := by
  have : B = A := funext fun p => funext fun q => propext (hab p q)
  rwa [this]

theorem Toggles.none (r : Raster) : Toggles (fun _ _ => False) r r :=
  ⟨fun _ _ h => h.elim, fun _ _ _ => rfl, by simp⟩

/-- Two sets of pixels toggled one after the other, with no pixel in both. -/
theorem Toggles.comp {A B : Fin 64 → Fin 32 → Prop} {r r' r'' : Raster} (h : Toggles A r r')
    (h' : Toggles B r' r'') (hd : ∀ p q, A p q → ¬ B p q) :
    Toggles (fun p q => A p q ∨ B p q) r r'' := by
  refine ⟨?_, ?_, ?_⟩
  · rintro p q (ha | hb)
    · rw [h'.outside p q (hd p q ha), h.inside p q ha]
    · rw [h'.inside p q hb, h.outside p q (fun ha => hd p q ha hb)]
  · intro p q hn
    rw [h'.outside p q (fun hb => hn (.inr hb)), h.outside p q (fun ha => hn (.inl ha))]
  · rw [h'.hit, h.hit]
    constructor
    · rintro ((hr | ⟨p, q, ha, hp⟩) | ⟨p, q, hb, hp⟩)
      · exact .inl hr
      · exact .inr ⟨p, q, .inl ha, hp⟩
      · rw [h.outside p q (fun ha => hd p q ha hb)] at hp
        exact .inr ⟨p, q, .inr hb, hp⟩
    · rintro (hr | ⟨p, q, ha | hb, hp⟩)
      · exact .inl (.inl hr)
      · exact .inl (.inr ⟨p, q, ha, hp⟩)
      · refine .inr ⟨p, q, hb, ?_⟩
        rw [h.outside p q (fun ha => hd p q ha hb), hp]

/-- Column `x`, row `y`, clipped or wrapped, is pixel (p, q). -/
def LandsOn (clip : Bool) (x y : Nat) (p : Fin 64) (q : Fin 32) : Prop :=
  if clip then p.val = x ∧ q.val = y else p.val = x % 64 ∧ q.val = y % 32

theorem LandsOn.apart {clip : Bool} {x y x' y' : Nat} {p : Fin 64} {q : Fin 32}
    (h : LandsOn clip x y p q) (h' : LandsOn clip x' y' p q) :
    x % 64 = x' % 64 ∧ y % 32 = y' % 32 := by
  have := p.isLt
  have := q.isLt
  cases clip <;> simp [LandsOn] at h h' <;> omega

/-- One sprite bit toggles the pixel it lands on, if it is 1 and lands on the grid. -/
theorem drawBit_toggles (clip : Bool) (x y : Nat) (bit : Bool) (r : Raster) :
    Toggles (fun p q => bit = true ∧ LandsOn clip x y p q) r (drawBit clip x y bit r) := by
  have one : ∀ hland : ∀ p q, LandsOn clip x y p q ↔ p.val = x % 64 ∧ q.val = y % 32,
      Toggles (LandsOn clip x y) r
        { disp := r.disp.toggle x y, hit := r.hit || r.disp.pixel x y } := by
    intro hland
    refine ⟨?_, ?_, ?_⟩
    · intro p q h
      simp only [Screen.pixel_toggle, if_pos ((hland p q).mp h)]
    · intro p q h
      simp only [Screen.pixel_toggle, if_neg (fun e => h ((hland p q).mpr e))]
    · simp only [Bool.or_eq_true, hland]
      refine or_congr_right ⟨fun h => ⟨⟨x % 64, Nat.mod_lt _ (by decide)⟩,
        ⟨y % 32, Nat.mod_lt _ (by decide)⟩, ⟨rfl, rfl⟩,
        (Screen.pixel_mod r.disp x y).trans h⟩, ?_⟩
      · rintro ⟨p, q, ⟨hp, hq⟩, h⟩
        rw [hp, hq, Screen.pixel_mod] at h
        exact h
  unfold drawBit
  split
  next hc =>
    refine (Toggles.none r).congr (fun p q => ?_)
    simp only [Bool.and_eq_true, Bool.or_eq_true, decide_eq_true_eq] at hc
    have := p.isLt
    have := q.isLt
    simp [LandsOn, hc.1]
    omega
  next hc =>
    have hland : ∀ p q, LandsOn clip x y p q ↔ p.val = x % 64 ∧ q.val = y % 32 := by
      intro p q
      cases clip
      · simp [LandsOn]
      · simp only [Bool.true_and, Bool.or_eq_true, decide_eq_true_eq, not_or, Nat.not_le] at hc
        simp [LandsOn, Nat.mod_eq_of_lt hc.1, Nat.mod_eq_of_lt hc.2]
    split
    next hb => exact (one hland).congr (fun p q => by simp [hb])
    next hb => exact (Toggles.none r).congr (fun p q => by simp [hb])

/-- One sprite row: the columns `cs`, all different and below 8. -/
theorem drawColumns_toggles (clip : Bool) (x0 y : Nat) (row : Byte) (cs : List Nat) (r : Raster)
    (hn : cs.Nodup) (hl : ∀ c ∈ cs, c < 8) :
    Toggles (fun p q => ∃ c ∈ cs, row.getLsbD (7 - c) = true ∧ LandsOn clip (x0 + c) y p q) r
      (drawColumns clip x0 y row cs r) := by
  induction cs generalizing r with
  | nil => exact (Toggles.none r).congr (fun p q => by simp)
  | cons c cs ih =>
    obtain ⟨hc, hn⟩ := List.nodup_cons.mp hn
    refine ((drawBit_toggles clip (x0 + c) y (row.getLsbD (7 - c)) r).comp
      (ih _ hn (fun d hd => hl d (List.mem_cons_of_mem c hd))) ?_).congr (fun p q => by simp)
    rintro p q ⟨-, h⟩ ⟨d, hd, -, h'⟩
    have hne : d ≠ c := fun e => hc (e ▸ hd)
    have := hl c List.mem_cons_self
    have := hl d (List.mem_cons_of_mem c hd)
    have := (h.apart h').1
    omega

/-- The whole sprite, at most 32 rows: the pixels that `SpriteCovers` names are toggled. -/
theorem drawRows_toggles (clip : Bool) (x0 y0 : Nat) (rows : List Byte) (r : Raster)
    (hl : rows.length ≤ 32) :
    Toggles (SpriteCovers clip x0 y0 rows) r (drawRows clip x0 y0 rows r) := by
  induction rows generalizing y0 r with
  | nil => exact (Toggles.none r).congr (fun p q => by simp [SpriteCovers])
  | cons row rows ih =>
    rw [List.length_cons] at hl
    refine ((drawColumns_toggles clip x0 y0 row [0, 1, 2, 3, 4, 5, 6, 7] r (by decide)
      (by decide)).comp (ih (y0 + 1) _ (by omega)) ?_).congr ?_
    · rintro p q ⟨c, -, -, h⟩ ⟨k, d, b, hb, -, -, h'⟩
      have hk : k < rows.length := (List.getElem?_eq_some_iff.mp hb).1
      have := (h.apart (show LandsOn clip (x0 + d) (y0 + 1 + k) p q from h')).2
      omega
    · intro p q
      constructor
      · rintro ⟨k, c, b, hb, hc, hbit, h⟩
        cases k with
        | zero =>
          cases hb
          exact .inl ⟨c, by simp; omega, hbit, h⟩
        | succ k =>
          refine .inr ⟨k, c, b, hb, hc, hbit, ?_⟩
          rwa [show y0 + 1 + k = y0 + (k + 1) by omega]
      · rintro (⟨c, hc, hbit, h⟩ | ⟨k, c, b, hb, hc, hbit, h⟩)
        · exact ⟨0, c, row, rfl, by simp at hc; omega, hbit, h⟩
        · refine ⟨k + 1, c, b, hb, hc, hbit, ?_⟩
          rwa [show y0 + (k + 1) = y0 + 1 + k by omega]

end Sys2Proof.Machine
end

