-- ==== Sys2Proof/Laws/Frame.lean ====
section
/-! SUPPORT. Frames: how they compose, and the frame of each named update. -/

namespace Sys2Proof.Machine

theorem Part.same_trans {p : Part} {s t u : State} (h : p.same s t) (h' : p.same t u) : p.same s u := by
  cases p <;> exact Eq.trans h' h

theorem UnchangedExcept.mono {w w' : Part → Prop} {s t : State} (h : UnchangedExcept w s t)
    (hw : ∀ p, w p → w' p) : UnchangedExcept w' s t :=
  fun p hp => h p (fun hw' => hp (hw p hw'))

theorem UnchangedExcept.trans {w w' : Part → Prop} {s t u : State} (h : UnchangedExcept w s t)
    (h' : UnchangedExcept w' t u) : UnchangedExcept (fun p => w p ∨ w' p) s u :=
  fun p hp => Part.same_trans (h p (fun hw => hp (.inl hw))) (h' p (fun hw => hp (.inr hw)))

theorem UnchangedExcept.refl (w : Part → Prop) (s : State) : UnchangedExcept w s s := by
  intro p _
  cases p <;> rfl

theorem setV_frame (s : State) (x : Reg) (b : Byte) :
    UnchangedExcept (fun p => p = .v x) s (s.setV x b) := by
  intro p hp
  cases p
  case v r =>
    have : r ≠ x := fun h => hp (by rw [h])
    simp [Part.same, this]
  all_goals simp [Part.same]

theorem setIndex_frame (s : State) (w : Word) :
    UnchangedExcept (fun p => p = .index) s (s.setIndex w) := by
  intro p hp
  cases p <;> first | exact absurd rfl hp | simp [Part.same]

theorem setPc_frame (s : State) (w : Word) : UnchangedExcept (fun p => p = .pc) s (s.setPc w) := by
  intro p hp
  cases p <;> first | exact absurd rfl hp | simp [Part.same]

theorem setStackEntry_frame (s : State) (k : Fin 16) (w : Word) :
    UnchangedExcept (fun p => p = .stack k) s (s.setStackEntry k w) := by
  intro p hp
  cases p
  case stack j =>
    have : k.val ≠ j.val := fun h => hp (by rw [Fin.ext h])
    simp [Part.same, this]
  all_goals simp [Part.same]

theorem setSp_frame (s : State) (n : Fin 17) : UnchangedExcept (fun p => p = .sp) s (s.setSp n) := by
  intro p hp
  cases p <;> first | exact absurd rfl hp | simp [Part.same]

theorem setDt_frame (s : State) (b : Byte) : UnchangedExcept (fun p => p = .dt) s (s.setDt b) := by
  intro p hp
  cases p <;> first | exact absurd rfl hp | simp [Part.same]

theorem setSt_frame (s : State) (b : Byte) : UnchangedExcept (fun p => p = .st) s (s.setSt b) := by
  intro p hp
  cases p <;> first | exact absurd rfl hp | simp [Part.same]

theorem setLatch_frame (s : State) (l : Option Key) :
    UnchangedExcept (fun p => p = .latch) s (s.setLatch l) := by
  intro p hp
  cases p <;> first | exact absurd rfl hp | simp [Part.same]

theorem setKeyState_frame (s : State) (k : Key) (u : KeyState) :
    UnchangedExcept (fun p => p = .key k) s (s.setKeyState k u) := by
  intro p hp
  cases p
  case key j =>
    have : j ≠ k := fun h => hp (by rw [h])
    simp [Part.same, State.setKeyState_getKey, this]
  all_goals simp [Part.same]

theorem setDisp_frame (s : State) (d : Screen) :
    UnchangedExcept (fun p => ∃ x y, p = .pixel x y) s (s.setDisp d) := by
  intro p hp
  cases p
  case pixel x y => exact absurd ⟨x, y, rfl⟩ hp
  all_goals simp [Part.same]

theorem nextDraw_frame (s : State) : UnchangedExcept (fun p => p = .draws) s s.nextDraw := by
  intro p hp
  cases p <;> first | exact absurd rfl hp | simp [Part.same]

/-- A run of bytes stored inside memory changes those bytes alone. -/
theorem setMem_writeBytes_frame (s : State) {a : Nat} {bs : List Byte} (h : s.mem.wf = true)
    (ha : a + bs.length ≤ Config.memSize) :
    UnchangedExcept (fun p => ∃ k, k < bs.length ∧ p = .mem (a + k)) s
      (s.setMem (s.mem.writeBytes a bs)) := by
  intro p hp
  cases p
  case mem c =>
    simp only [Part.same, State.setMem_readByte]
    rw [Memory.read_writeBytes h ha, if_neg]
    · rfl
    · intro hc
      exact hp ⟨c - a, by omega, by congr 1; omega⟩
  all_goals simp [Part.same]

/-- FX65's registers: those above the last byte loaded stay. -/
theorem loadRegisters_frame (s : State) (b : List Byte) :
    UnchangedExcept (fun p => ∃ r : Reg, r.val < b.length ∧ p = .v r) s (loadRegisters b s) := by
  intro p hp
  cases p
  case v r =>
    have : b.length ≤ r.val := Nat.not_lt.mp (fun h => hp ⟨r, h, rfl⟩)
    simp only [Part.same, loadRegisters_getV, List.getElem?_eq_none this, Option.getD_none]
  all_goals simp [Part.same, loadRegisters]

end Sys2Proof.Machine
end

