-- ==== Sys2Proof/Laws/Exec.lean ====
section
/-! SUPPORT. Everything that an instruction can write when it answers a next state, said once for all
34: whole-machine claims cite `exec_frame` and never unfold a meaning. -/

namespace Sys2Proof.Machine

/-- The parts of the state that the instruction can write under the quirks `q`. -/
def Writes (q : Quirks) : Instr → Part → Prop
  | .cls, p => ∃ x y, p = .pixel x y
  | .ret, p => p = .pc ∨ p = .sp
  | .call _, p => (∃ k, p = .stack k) ∨ p = .sp ∨ p = .pc
  | .jp _, p | .jpV0 _ _, p | .seImm _ _, p | .sneImm _ _, p | .seReg _ _, p | .sneReg _ _, p
  | .skp _, p | .sknp _, p => p = .pc
  | .ldImm x _, p | .addImm x _, p | .ldReg x _, p | .ldVxDt x, p => p = .v x
  | .orReg x _, p | .andReg x _, p | .xorReg x _, p => p = .v x ∨ (q.vfReset = true ∧ p = .v VF)
  | .addReg x _, p | .subReg x _, p | .subn x _, p | .shr x _, p | .shl x _, p => p = .v x ∨ p = .v VF
  | .rnd x _, p => p = .v x ∨ p = .draws
  | .ldI _, p | .addI _, p | .ldF _, p => p = .index
  | .drw _ _ _, p => p = .v VF ∨ ∃ x y, p = .pixel x y
  | .ldDtVx _, p => p = .dt
  | .ldStVx _, p => p = .st
  | .ldVxK x, p => p = .v x ∨ p = .latch ∨ p = .pc
  | .ldB _, p => ∃ a, p = .mem a
  | .ldMemVx _, p => (∃ a, p = .mem a) ∨ (q.memory = true ∧ p = .index)
  | .ldVxMem x, p => (∃ r : Reg, r.val ≤ x.val ∧ p = .v r) ∨ (q.memory = true ∧ p = .index)

theorem skipIf_frame (c : Bool) (s : State) : UnchangedExcept (fun p => p = .pc) s (skipIf c s) := by
  rw [skipIf_eq]
  exact setPc_frame s _

theorem setMem_frame (s : State) (m : Memory) :
    UnchangedExcept (fun p => ∃ a, p = .mem a) s (s.setMem m) := by
  intro p hp
  cases p
  case mem a => exact absurd ⟨a, rfl⟩ hp
  all_goals simp [Part.same]

theorem advanceIndexIfQuirk_frame (x : Reg) (s : State) :
    UnchangedExcept (fun p => s.quirks.memory = true ∧ p = .index) s (advanceIndexIfQuirk x s) := by
  rw [advanceIndexIfQuirk]
  split
  next h => exact (setIndex_frame s _).mono (fun _ hp => ⟨h, hp⟩)
  next => exact .refl _ s

theorem resetFlagIfQuirk_frame (s : State) :
    UnchangedExcept (fun p => s.quirks.vfReset = true ∧ p = .v VF) s (resetFlagIfQuirk s) := by
  rw [resetFlagIfQuirk]
  split
  next h => exact (setV_frame s VF 0).mono (fun _ hp => ⟨h, hp⟩)
  next => exact .refl _ s

theorem logicOp_frame (f : Byte → Byte → Byte) (x y : Reg) (s : State) :
    UnchangedExcept (fun p => p = .v x ∨ (s.quirks.vfReset = true ∧ p = .v VF)) s (logicOp f x y s) :=
  ((resetFlagIfQuirk_frame s).trans (setV_frame _ x _)).mono (fun _ => Or.symm)

theorem resultThenFlag_frame (x : Reg) (a b : Byte) (s : State) :
    UnchangedExcept (fun p => p = .v x ∨ p = .v VF) s (resultThenFlag x a b s) :=
  (setV_frame s x a).trans (setV_frame _ VF b)

theorem loadShifted_frame (x y : Reg) (s : State) :
    UnchangedExcept (fun p => p = .v x) s (loadShifted x y s) := by
  rw [loadShifted]
  split
  · exact .refl _ s
  · exact setV_frame s x _

theorem flagThenShift_frame (flag shift : Byte → Byte) (x y : Reg) (s : State) :
    UnchangedExcept (fun p => p = .v x ∨ p = .v VF) s (flagThenShift flag shift x y s) :=
  (((loadShifted_frame x y s).trans (setV_frame _ VF _)).trans (setV_frame _ x _)).mono
    (fun _ hp => hp.elim id .inl)

theorem drawSprite_frame (x0 y0 : Nat) (sprite : List Byte) (s : State) :
    UnchangedExcept (fun p => p = .v VF ∨ ∃ x y, p = .pixel x y) s (drawSprite x0 y0 sprite s) := by
  have h := (setV_frame s VF 0).trans (setDisp_frame (s.setV VF 0)
    (drawRows s.quirks.clipping x0 y0 sprite ⟨s.disp, false⟩).disp)
  rw [drawSprite, raiseCollision]
  split
  · exact (h.trans (setV_frame _ VF 1)).mono (fun _ hp => hp.elim id .inl)
  · exact h

theorem popReturn_frame {s t : State} (h : popReturn s = .ok t) :
    UnchangedExcept (fun p => p = .pc ∨ p = .sp) s t := by
  rw [popReturn] at h
  split at h
  · cases h
  · cases h
    exact (setPc_frame s _).trans (setSp_frame _ _)

theorem pushReturn_frame {s t : State} (h : pushReturn s = .ok t) :
    UnchangedExcept (fun p => (∃ k, p = .stack k) ∨ p = .sp) s t := by
  rw [pushReturn] at h
  split at h
  · cases h
    exact ((setStackEntry_frame s _ _).trans (setSp_frame _ _)).mono
      (fun _ hp => hp.imp (fun e => ⟨_, e⟩) id)
  · cases h

theorem memWrite_frame {s t : State} {a : Nat} {v : List Byte} (h : memWrite s a v = .ok t) :
    UnchangedExcept (fun p => ∃ c, p = .mem c) s t := by
  rw [memWrite] at h
  split at h
  · cases h
  · split at h
    · cases h
    · cases h
      exact setMem_frame s _

theorem scanForKey_frame (x : Reg) (s : State) :
    UnchangedExcept (fun p => p = .v x ∨ p = .latch ∨ p = .pc) s (scanForKey x s) := by
  rw [scanForKey]
  split
  · exact (setPc_frame s _).mono (fun _ hp => .inr (.inr hp))
  · split
    · exact (((setV_frame s x _).trans (setLatch_frame _ _)).trans (setPc_frame _ _)).mono
        (fun _ hp => hp.elim (fun h => h.imp id .inl) (fun h => .inr (.inr h)))
    · exact (setV_frame s x _).mono (fun _ hp => .inl hp)

theorem awaitRelease_frame (j : Key) (s : State) :
    UnchangedExcept (fun p => p = .latch ∨ p = .pc) s (awaitRelease j s) := by
  rw [awaitRelease]
  split
  · exact (setLatch_frame s _).mono (fun _ hp => .inl hp)
  · exact (setPc_frame s _).mono (fun _ hp => .inr hp)

/-- The frame of every instruction: a next state differs from the state before in nothing but what
`Writes` lists. -/
theorem exec_frame {i : Instr} {s t : State} (h : exec i s = .next t) :
    UnchangedExcept (Writes s.quirks i) s t := by
  cases i <;> simp only [exec] at h <;> try cases h
  case cls => exact setDisp_frame s _
  case ret =>
    obtain ⟨u, hu, h⟩ := orRaise_next h
    cases h
    exact popReturn_frame hu
  case call =>
    obtain ⟨u, hu, h⟩ := orRaise_next h
    cases h
    exact ((pushReturn_frame hu).trans (setPc_frame u _)).mono
      (fun _ hp => hp.elim (fun h => h.imp id .inl) (fun h => .inr (.inr h)))
  case jp => exact setPc_frame s _
  case jpV0 => exact setPc_frame s _
  case seImm => exact skipIf_frame _ s
  case sneImm => exact skipIf_frame _ s
  case seReg => exact skipIf_frame _ s
  case sneReg => exact skipIf_frame _ s
  case skp =>
    obtain ⟨k, -, h⟩ := orRaise_next h
    cases h
    exact skipIf_frame _ s
  case sknp =>
    obtain ⟨k, -, h⟩ := orRaise_next h
    cases h
    exact skipIf_frame _ s
  case ldImm => exact setV_frame s _ _
  case addImm => exact setV_frame s _ _
  case ldReg => exact setV_frame s _ _
  case ldVxDt => exact setV_frame s _ _
  case orReg => exact logicOp_frame _ _ _ s
  case andReg => exact logicOp_frame _ _ _ s
  case xorReg => exact logicOp_frame _ _ _ s
  case addReg => exact resultThenFlag_frame _ _ _ s
  case subReg => exact resultThenFlag_frame _ _ _ s
  case subn => exact resultThenFlag_frame _ _ _ s
  case shr => exact flagThenShift_frame _ _ _ _ s
  case shl => exact flagThenShift_frame _ _ _ _ s
  case rnd => exact (setV_frame s _ _).trans (nextDraw_frame _)
  case ldI => exact setIndex_frame s _
  case addI => exact setIndex_frame s _
  case ldF => exact setIndex_frame s _
  case drw =>
    obtain ⟨b, -, h⟩ := orRaise_next h
    cases h
    exact drawSprite_frame _ _ _ s
  case ldDtVx => exact setDt_frame s _
  case ldStVx => exact setSt_frame s _
  case ldVxK x =>
    rw [execLdVxK] at h
    split at h <;> cases h
    · split
      · exact (awaitRelease_frame _ s).mono (fun _ hp => .inr hp)
      · exact scanForKey_frame x s
    · exact scanForKey_frame x s
  case ldB =>
    obtain ⟨u, hu, h⟩ := orRaise_next h
    cases h
    exact memWrite_frame hu
  case ldMemVx x =>
    obtain ⟨u, hu, h⟩ := orRaise_next h
    cases h
    have hw := memWrite_frame hu
    have hq : u.quirks = s.quirks := hw .quirks (by simp)
    have ha := advanceIndexIfQuirk_frame x u
    rw [hq] at ha
    exact hw.trans ha
  case ldVxMem x =>
    obtain ⟨b, hb, h⟩ := orRaise_next h
    cases h
    have hl : b.length = x.val + 1 := by
      rw [memRead] at hb
      split at hb <;> cases hb
      simp
    exact ((loadRegisters_frame s b).trans (advanceIndexIfQuirk_frame x _)).mono
      (fun _ hp => hp.imp (fun ⟨r, hr, e⟩ => ⟨r, by omega, e⟩) id)

end Sys2Proof.Machine
end

