-- ==== Sys2Proof/Laws/PerInstr.lean ====
section
/-! SUPPORT. Per-instruction families: a statement about the instruction as syntax, one lemma per
constructor. -/

namespace Sys2Proof.Laws.OpcodeRowMatches

/-- The instruction's word selects the row of the opcode map that bears its mnemonic (30_encoding.md
R74). -/
def Statement (i : Instr) : Prop :=
  ∃ r ∈ opcodeTable, r.mnemonic = i.mnemonic ∧ r.selectedBy (encode i) = true

theorem of_row {i : Instr} (r : OpcodeRow) (hm : r ∈ opcodeTable) (hn : r.mnemonic = i.mnemonic)
    (hw : encode i &&& r.mask = r.value) : Statement i :=
  ⟨r, hm, hn, by simpa [OpcodeRow.selectedBy] using hw⟩

theorem cls : Statement .cls :=
  of_row ⟨"CLS", 0xFFFF, 0x00E0⟩ (by decide) rfl
    rfl

theorem ret : Statement .ret :=
  of_row ⟨"RET", 0xFFFF, 0x00EE⟩ (by decide) rfl
    rfl

theorem jp (nnn : Addr) : Statement (.jp nnn) :=
  of_row ⟨"JP_NNN", 0xF000, 0x1000⟩ (by decide) rfl
    (formatNNN_masked 0x1 nnn)

theorem call (nnn : Addr) : Statement (.call nnn) :=
  of_row ⟨"CALL_NNN", 0xF000, 0x2000⟩ (by decide) rfl
    (formatNNN_masked 0x2 nnn)

theorem seImm (x : Reg) (nn : Byte) : Statement (.seImm x nn) :=
  of_row ⟨"SE_VX__NN", 0xF000, 0x3000⟩ (by decide) rfl
    (formatXNN_masked 0x3 x nn)

theorem sneImm (x : Reg) (nn : Byte) : Statement (.sneImm x nn) :=
  of_row ⟨"SNE_VX__NN", 0xF000, 0x4000⟩ (by decide) rfl
    (formatXNN_masked 0x4 x nn)

theorem seReg (x : Reg) (y : Reg) : Statement (.seReg x y) :=
  of_row ⟨"SE_VX__VY", 0xF00F, 0x5000⟩ (by decide) rfl
    (formatXYN_masked_nibble 0x5 x y 0x0)

theorem sneReg (x : Reg) (y : Reg) : Statement (.sneReg x y) :=
  of_row ⟨"SNE_VX__VY", 0xF00F, 0x9000⟩ (by decide) rfl
    (formatXYN_masked_nibble 0x9 x y 0x0)

theorem ldImm (x : Reg) (nn : Byte) : Statement (.ldImm x nn) :=
  of_row ⟨"LD_VX__NN", 0xF000, 0x6000⟩ (by decide) rfl
    (formatXNN_masked 0x6 x nn)

theorem addImm (x : Reg) (nn : Byte) : Statement (.addImm x nn) :=
  of_row ⟨"ADD_VX__NN", 0xF000, 0x7000⟩ (by decide) rfl
    (formatXNN_masked 0x7 x nn)

theorem ldReg (x : Reg) (y : Reg) : Statement (.ldReg x y) :=
  of_row ⟨"LD_VX__VY", 0xF00F, 0x8000⟩ (by decide) rfl
    (formatXYN_masked_nibble 0x8 x y 0x0)

theorem orReg (x : Reg) (y : Reg) : Statement (.orReg x y) :=
  of_row ⟨"OR_VX__VY", 0xF00F, 0x8001⟩ (by decide) rfl
    (formatXYN_masked_nibble 0x8 x y 0x1)

theorem andReg (x : Reg) (y : Reg) : Statement (.andReg x y) :=
  of_row ⟨"AND_VX__VY", 0xF00F, 0x8002⟩ (by decide) rfl
    (formatXYN_masked_nibble 0x8 x y 0x2)

theorem xorReg (x : Reg) (y : Reg) : Statement (.xorReg x y) :=
  of_row ⟨"XOR_VX__VY", 0xF00F, 0x8003⟩ (by decide) rfl
    (formatXYN_masked_nibble 0x8 x y 0x3)

theorem addReg (x : Reg) (y : Reg) : Statement (.addReg x y) :=
  of_row ⟨"ADD_VX__VY", 0xF00F, 0x8004⟩ (by decide) rfl
    (formatXYN_masked_nibble 0x8 x y 0x4)

theorem subReg (x : Reg) (y : Reg) : Statement (.subReg x y) :=
  of_row ⟨"SUB_VX__VY", 0xF00F, 0x8005⟩ (by decide) rfl
    (formatXYN_masked_nibble 0x8 x y 0x5)

theorem shr (x : Reg) (y : Reg) : Statement (.shr x y) :=
  of_row ⟨"SHR_VX__VY", 0xF00F, 0x8006⟩ (by decide) rfl
    (formatXYN_masked_nibble 0x8 x y 0x6)

theorem subn (x : Reg) (y : Reg) : Statement (.subn x y) :=
  of_row ⟨"SUBN_VX__VY", 0xF00F, 0x8007⟩ (by decide) rfl
    (formatXYN_masked_nibble 0x8 x y 0x7)

theorem shl (x : Reg) (y : Reg) : Statement (.shl x y) :=
  of_row ⟨"SHL_VX__VY", 0xF00F, 0x800E⟩ (by decide) rfl
    (formatXYN_masked_nibble 0x8 x y 0xE)

theorem ldI (nnn : Addr) : Statement (.ldI nnn) :=
  of_row ⟨"LD_I__NNN", 0xF000, 0xA000⟩ (by decide) rfl
    (formatNNN_masked 0xA nnn)

theorem jpV0 (nnn : Addr) (x : Reg) : Statement (.jpV0 nnn x) :=
  of_row ⟨"JP_V0__NNN", 0xF000, 0xB000⟩ (by decide) rfl
    (formatNNN_masked 0xB nnn)

theorem rnd (x : Reg) (nn : Byte) : Statement (.rnd x nn) :=
  of_row ⟨"RND_VX__NN", 0xF000, 0xC000⟩ (by decide) rfl
    (formatXNN_masked 0xC x nn)

theorem drw (x : Reg) (y : Reg) (n : Fin 16) : Statement (.drw x y n) :=
  of_row ⟨"DRW_VX__VY__N", 0xF000, 0xD000⟩ (by decide) rfl
    (formatXYN_masked 0xD x y n)

theorem skp (x : Reg) : Statement (.skp x) :=
  of_row ⟨"SKP_VX", 0xF0FF, 0xE09E⟩ (by decide) rfl
    (formatXNN_masked_byte 0xE x 0x9E)

theorem sknp (x : Reg) : Statement (.sknp x) :=
  of_row ⟨"SKNP_VX", 0xF0FF, 0xE0A1⟩ (by decide) rfl
    (formatXNN_masked_byte 0xE x 0xA1)

theorem ldVxDt (x : Reg) : Statement (.ldVxDt x) :=
  of_row ⟨"LD_VX__DT", 0xF0FF, 0xF007⟩ (by decide) rfl
    (formatXNN_masked_byte 0xF x 0x07)

theorem ldDtVx (x : Reg) : Statement (.ldDtVx x) :=
  of_row ⟨"LD_DT__VX", 0xF0FF, 0xF015⟩ (by decide) rfl
    (formatXNN_masked_byte 0xF x 0x15)

theorem ldStVx (x : Reg) : Statement (.ldStVx x) :=
  of_row ⟨"LD_ST__VX", 0xF0FF, 0xF018⟩ (by decide) rfl
    (formatXNN_masked_byte 0xF x 0x18)

theorem ldVxK (x : Reg) : Statement (.ldVxK x) :=
  of_row ⟨"LD_VX__K", 0xF0FF, 0xF00A⟩ (by decide) rfl
    (formatXNN_masked_byte 0xF x 0x0A)

theorem addI (x : Reg) : Statement (.addI x) :=
  of_row ⟨"ADD_I__VX", 0xF0FF, 0xF01E⟩ (by decide) rfl
    (formatXNN_masked_byte 0xF x 0x1E)

theorem ldF (x : Reg) : Statement (.ldF x) :=
  of_row ⟨"LD_F__VX", 0xF0FF, 0xF029⟩ (by decide) rfl
    (formatXNN_masked_byte 0xF x 0x29)

theorem ldB (x : Reg) : Statement (.ldB x) :=
  of_row ⟨"LD_B__VX", 0xF0FF, 0xF033⟩ (by decide) rfl
    (formatXNN_masked_byte 0xF x 0x33)

theorem ldMemVx (x : Reg) : Statement (.ldMemVx x) :=
  of_row ⟨"LD__I___VX", 0xF0FF, 0xF055⟩ (by decide) rfl
    (formatXNN_masked_byte 0xF x 0x55)

theorem ldVxMem (x : Reg) : Statement (.ldVxMem x) :=
  of_row ⟨"LD_VX___I", 0xF0FF, 0xF065⟩ (by decide) rfl
    (formatXNN_masked_byte 0xF x 0x65)

end Sys2Proof.Laws.OpcodeRowMatches
end

