-- ==== Sys2Proof/Laws/Step.lean ====
section
/-! SUPPORT. What a step is: an inversion by fetch and decode, and the placed instruction. -/

namespace Sys2Proof.Machine

/-- A step whose fetch stays in memory runs the word at `pc`, with `pc` advanced. -/
theorem step_inside (s : State) (h : s.pc.toNat ≤ 0xFFE) :
    step s = runWord (wordOfBytes (s.readByte s.pc.toNat) (s.readByte (s.pc.toNat + 1))) s.advance := by
  rw [step, fetch_inside s h, orRaise_ok]

theorem runWord_ok {op : Word} {i : Instr} (h : decode op = .ok i) (s : State) :
    runWord op s = exec i s := by
  simp [runWord, h]

theorem runWord_error {op : Word} {e : DecodeError} (h : decode op = .error e) (s : State) :
    runWord op s = .fault (.undefinedInstruction op s) := by
  simp [runWord, h, raise]

/-- Everything a step that answers a next state can have done. -/
theorem step_next_cases {s t : State} (h : step s = .next t) :
    s.pc.toNat ≤ 0xFFE ∧ ∃ op i,
      op = wordOfBytes (s.readByte s.pc.toNat) (s.readByte (s.pc.toNat + 1)) ∧
      decode op = .ok i ∧ exec i s.advance = .next t := by
  by_cases hp : s.pc.toNat ≤ 0xFFE
  · rw [step_inside s hp] at h
    refine ⟨hp, wordOfBytes (s.readByte s.pc.toNat) (s.readByte (s.pc.toNat + 1)), ?_⟩
    cases hd : decode (wordOfBytes (s.readByte s.pc.toNat) (s.readByte (s.pc.toNat + 1))) with
    | ok i => exact ⟨i, rfl, rfl, by rwa [runWord_ok hd] at h⟩
    | error e => rw [runWord_error hd] at h; cases h
  · rw [step, fetch_outside s (by omega)] at h
    cases h

/-- The word at `pc`, as a number, is the word fetched. -/
theorem wordOfBytes_at_pc (s : State) :
    wordOfBytes (s.readByte s.pc.toNat) (s.readByte (s.pc.toNat + 1)) =
      BitVec.ofNat 16 (wordAtPc s) := by
  apply BitVec.eq_of_toNat_eq
  rw [wordOfBytes_toNat, BitVec.toNat_ofNat, wordAtPc]
  have := (s.readByte s.pc.toNat).isLt
  have := (s.readByte (s.pc.toNat + 1)).isLt
  omega

/-- A placed word is the one the next step runs. -/
theorem step_placeWord {s : State} (hm : s.mem.wf = true) (hp : s.pc.toNat ≤ 0xFFE) {op : Word}
    {i : Instr} (hd : decode op = .ok i) :
    step (placeWord op s) = exec i (placeWord op s).advance := by
  have hpc : (placeWord op s).pc = s.pc := by simp [placeWord, atFetchablePc, hp]
  have hrd : ∀ c, (placeWord op s).readByte c =
      if s.pc.toNat ≤ c ∧ c < s.pc.toNat + 2 then (bytesOfWord op).getD (c - s.pc.toNat) 0
      else s.readByte c := by
    intro c
    simp only [placeWord, atFetchablePc, hp, if_true, State.readByte]
    exact Memory.read_writeBytes (bs := bytesOfWord op) hm
      (show s.pc.toNat + 2 ≤ 4096 by omega) c
  have hb0 : (placeWord op s).readByte s.pc.toNat = op.extractLsb 15 8 := by
    rw [hrd, if_pos (by omega), Nat.sub_self]
    rfl
  have hb1 : (placeWord op s).readByte (s.pc.toNat + 1) = op.extractLsb 7 0 := by
    rw [hrd, if_pos (by omega), Nat.add_sub_cancel_left]
    rfl
  rw [step_inside _ (by rw [hpc]; exact hp), hpc, hb0, hb1]
  exact runWord_ok ((congrArg decode (wordOfBytes_bytesOfWord op)).trans hd) _

end Sys2Proof.Machine
end

