-- ==== Sys2Proof/Tests/Slice0.lean ====
section
/-! SUPPORT. Tests. Expected results come from spec/95_test_vectors.md (its T and P numbers stand in the
docstrings) or are worked by hand from the rules named; and for each statement with hypotheses a witness
that meets them. -/

namespace Sys2Proof.Tests

open Sys2Proof Sys2Proof.Machine

/-! ### Helpers -/

/-- The reset state with some registers set. -/
def withV (rs : List (Reg × Byte)) : State := rs.foldl (fun s p => s.setV p.1 p.2) State.reset

/-- `s` under changed quirks. -/
def under (f : Quirks → Quirks) (s : State) : State := { s with quirks := f s.quirks }

/-- Every quirk on. -/
def allQuirks : Quirks := ⟨true, true, true, true, true, true⟩

/-- `s` with bytes stored from `a` up. -/
def withBytes (a : Nat) (bs : List Byte) (s : State) : State := s.setMem (s.mem.writeBytes a bs)

/-- One step of `s` with the word `w` placed at its `pc`. -/
def run (w : Nat) (s : State) : Outcome := step (s.withFetchWord 16 w)

/-- The outcome is a next state with the property. -/
def gives (o : Outcome) (p : State → Bool) : Bool :=
  match o with
  | .next t => p t
  | _ => false

/-- The outcome is this fault, and the state it leaves has the property. -/
def faultsAs (o : Outcome) (p : Fault → Bool) (q : State → Bool) : Bool :=
  match o with
  | .fault f => p f && q f.left
  | _ => false

theorem next_of_gives {o : Outcome} {p : State → Bool} (h : gives o p = true) :
    ∃ t, o = .next t ∧ p t = true := by
  cases o with
  | next t => exact ⟨t, rfl, h⟩
  | fault f => cases h
  | refused r => cases h

/-- The font of the reset state, as the parameter of construction. -/
def font : Vector Byte 80 := Vector.ofFn (fun k => Memory.unlisted k.val)

/-! ### Decoding: words written out from 30_encoding.md R74, one for each constructor -/

theorem test_decode_control :
    decode 0b0000000011100000 = .ok .cls ∧ decode 0b0000000011101110 = .ok .ret ∧
    decode 0b0001001000000100 = .ok (.jp 0x204) ∧ decode 0b0010001000001000 = .ok (.call 0x208) ∧
    decode 0b0011000111111110 = .ok (.seImm 1 0xFE) ∧ decode 0b0100101000000110 = .ok (.sneImm 10 0x06) ∧
    decode 0b0101101010110000 = .ok (.seReg 10 11) ∧ decode 0b1001101010110000 = .ok (.sneReg 10 11) := by
  decide

theorem test_decode_register :
    decode 0b0110101011111111 = .ok (.ldImm 10 0xFF) ∧ decode 0b0111000111111111 = .ok (.addImm 1 0xFF) ∧
    decode 0b1000001000110000 = .ok (.ldReg 2 3) ∧ decode 0b1000001000110001 = .ok (.orReg 2 3) ∧
    decode 0b1000001000110010 = .ok (.andReg 2 3) ∧ decode 0b1000001000110011 = .ok (.xorReg 2 3) ∧
    decode 0b1000001000110100 = .ok (.addReg 2 3) ∧ decode 0b1000001000110101 = .ok (.subReg 2 3) ∧
    decode 0b1000101010110110 = .ok (.shr 10 11) ∧ decode 0b1000101010110111 = .ok (.subn 10 11) ∧
    decode 0b1000101010111110 = .ok (.shl 10 11) ∧ decode 0b1100010100001111 = .ok (.rnd 5 0x0F) := by
  decide

theorem test_decode_index_display_keys :
    decode 0b1010001000101010 = .ok (.ldI 0x22A) ∧ decode 0b1011001000110100 = .ok (.jpV0 0x234 2) ∧
    decode 0b1101000100100101 = .ok (.drw 1 2 5) ∧ decode 0b1110001110011110 = .ok (.skp 3) ∧
    decode 0b1110001110100001 = .ok (.sknp 3) ∧ decode 0b1111001100001010 = .ok (.ldVxK 3) := by
  decide

theorem test_decode_misc :
    decode 0b1111001000000111 = .ok (.ldVxDt 2) ∧ decode 0b1111000100010101 = .ok (.ldDtVx 1) ∧
    decode 0b1111000100011000 = .ok (.ldStVx 1) ∧ decode 0b1111111100011110 = .ok (.addI 15) ∧
    decode 0b1111001000101001 = .ok (.ldF 2) ∧ decode 0b1111000000110011 = .ok (.ldB 0) ∧
    decode 0b1111001001010101 = .ok (.ldMemVx 2) ∧ decode 0b1111001001100101 = .ok (.ldVxMem 2) := by
  decide

/-- The spot checks of 95_test_vectors.md section T1 that are undefined, and T1.2 to T1.6. -/
theorem test_decode_undefined :
    [0x00E1, 0x5AB1, 0x8ABF, 0xE0A2, 0xF075, 0x0123, 0x5121, 0x8018, 0xE19F, 0xF1FF].all
      (fun op => decide (decode op = .error (.undefinedWord op))) = true := by
  decide

theorem test_decodeBytes_truncated : decodeBytes [0x12] = .error (.truncated [0x12]) := by decide

theorem test_decodeTableWord :
    decodeTableWord 16 0xD125 = some (.drw 1 2 5) ∧ decodeTableWord 16 0x8018 = none := by decide

/-- The encodings of program P3, in the other direction. -/
theorem test_encode :
    encode (.ldF 0) = 0xF029 ∧ encode (.drw 1 2 5) = 0xD125 ∧ encode (.jpV0 0x234 2) = 0xB234 := by
  decide

/-- The one check of WellFormed refuses a term whose two fields disagree. -/
theorem test_wellFormed_refuses : (Instr.jpV0 0x234 5).wellFormed = false := by decide

theorem test_wellFormed_admits : (Instr.jpV0 0x234 2).wellFormed = true := by decide

/-! ### The cycle -/

/-- T1.1: from reset with nothing loaded. -/
theorem test_step_reset :
    faultsAs (step State.reset) (fun f => f.code == 1) (fun t => t.pc == 0x0202) = true := by decide

/-- T1.7 and T1.9: fetch at the top of memory and beyond. -/
theorem test_fetch_outside :
    faultsAs (step { State.reset with pc := 0x0FFF }) (fun f => f == .addressOutOfRange 0x1000 f.left)
      (fun t => t.pc == 0x0FFF) = true ∧
    faultsAs (step { State.reset with pc := 0x10FE }) (fun f => f == .addressOutOfRange 0x10FE f.left)
      (fun t => t.pc == 0x10FE) = true := by decide

/-- T1.10: a fetch at an odd address. -/
theorem test_fetch_odd :
    gives (step { withBytes 0x200 [0x60, 0x12, 0x34] State.reset with pc := 0x0201 })
      (fun t => t.pc == 0x0234) = true := by decide

/-- The word that `withFetchWord` places is the one that runs, from a `pc` beyond memory too. -/
theorem test_withFetchWord :
    gives (run 0x6AFF { State.reset with pc := 0x10FE }) (fun t => t.getV 10 == 0xFF) = true := by decide

/-! ### Control flow -/

/-- T2.1. -/
theorem test_jp : gives (run 0x1204 State.reset) (fun t => t.pc == 0x0204) = true := by decide

/-- T2.4: the last free entry. -/
theorem test_call :
    gives (run 0x2300 { State.reset with sp := 15 })
      (fun t => t.stack[15] == 0x0202 && t.sp == 16 && t.pc == 0x0300) = true := by decide

/-- T2.5. -/
theorem test_call_full :
    faultsAs (run 0x2300 { State.reset with sp := 16 }) (fun f => f.code == 3)
      (fun t => t.pc == 0x0202 && t.sp == 16) = true := by decide

/-- T2.6. -/
theorem test_ret :
    gives (run 0x00EE { State.reset.setStackEntry 0 0x0206 with sp := 1, pc := 0x020C })
      (fun t => t.pc == 0x0206 && t.sp == 0 && t.stack[0] == 0x0206) = true := by decide

/-- T2.7. -/
theorem test_ret_empty :
    faultsAs (run 0x00EE State.reset) (fun f => f.code == 4) (fun t => t.pc == 0x0202) = true := by decide

/-- T3.1 and T3.2. -/
theorem test_seImm :
    gives (run 0x3100 State.reset) (fun t => t.pc == 0x0204) = true ∧
    gives (run 0x3100 (withV [(1, 1)])) (fun t => t.pc == 0x0202) = true := by decide

/-- T3.3 and T3.4. -/
theorem test_sneImm :
    gives (run 0x4006 (withV [(0, 5)])) (fun t => t.pc == 0x0204) = true ∧
    gives (run 0x4005 (withV [(0, 5)])) (fun t => t.pc == 0x0202) = true := by decide

/-- T3.5 and T3.6. -/
theorem test_seReg :
    gives (run 0x5230 (withV [(2, 0x7F), (3, 0x7F)])) (fun t => t.pc == 0x0204) = true ∧
    gives (run 0x5230 (withV [(2, 1), (3, 2)])) (fun t => t.pc == 0x0202) = true := by decide

/-- T3.7 and T3.8. -/
theorem test_sneReg :
    gives (run 0x9230 (withV [(2, 1), (3, 2)])) (fun t => t.pc == 0x0204) = true ∧
    gives (run 0x9220 (withV [(2, 1)])) (fun t => t.pc == 0x0202) = true := by decide

/-- T2.8 and T2.10. -/
theorem test_jpV0 :
    gives (run 0xB234 (withV [(0, 0x04), (2, 0x10)])) (fun t => t.pc == 0x0238) = true ∧
    gives (run 0xBFFF (withV [(0, 0xFF)])) (fun t => t.pc == 0x10FE) = true := by decide

/-- T2.9. -/
theorem test_jpV0_jumping :
    gives (run 0xB234 (under ({ · with jumping := true }) (withV [(0, 0x04), (2, 0x10)])))
      (fun t => t.pc == 0x0244) = true := by decide

/-! ### Registers -/

/-- T4.1. -/
theorem test_ldImm : gives (run 0x6AFF State.reset) (fun t => t.getV 10 == 0xFF) = true := by decide

/-- T4.2: it wraps and leaves VF. -/
theorem test_addImm :
    gives (run 0x71FF (withV [(1, 1), (15, 7)])) (fun t => t.getV 1 == 0 && t.getV VF == 7) = true := by
  decide

/-- T4.4. -/
theorem test_ldReg : gives (run 0x8230 (withV [(3, 0x2A)])) (fun t => t.getV 2 == 0x2A) = true := by decide

/-- T4.5 without the quirk. -/
theorem test_logic :
    gives (run 0x8011 (withV [(0, 0x0C), (1, 0x0A), (15, 1)])) (fun t => t.getV 0 == 0x0E && t.getV VF == 1)
      = true ∧
    gives (run 0x8012 (withV [(0, 0x0C), (1, 0x0A), (15, 1)])) (fun t => t.getV 0 == 0x08 && t.getV VF == 1)
      = true ∧
    gives (run 0x8013 (withV [(0, 0x0C), (1, 0x0A), (15, 1)])) (fun t => t.getV 0 == 0x06 && t.getV VF == 1)
      = true := by decide

/-- T4.23 with the quirk: VF as an operand counts as 0. -/
theorem test_logic_vfReset :
    gives (run 0x80F1 (under ({ · with vfReset := true }) (withV [(0, 0x0A), (15, 0x0C)])))
      (fun t => t.getV 0 == 0x0A && t.getV VF == 0) = true ∧
    gives (run 0x80F2 (under ({ · with vfReset := true }) (withV [(0, 0x0A), (15, 0x0C)])))
      (fun t => t.getV 0 == 0x00 && t.getV VF == 0) = true ∧
    gives (run 0x80F3 (under ({ · with vfReset := true }) (withV [(0, 0x0A), (15, 0x0C)])))
      (fun t => t.getV 0 == 0x0A && t.getV VF == 0) = true := by decide

/-- T4.7. -/
theorem test_addReg :
    gives (run 0x8014 (withV [(0, 0xFF), (1, 1)])) (fun t => t.getV 0 == 0 && t.getV VF == 1) = true := by
  decide

/-- T4.25: VF as the destination. -/
theorem test_addReg_vf :
    gives (run 0x8F14 (withV [(15, 200), (1, 100)])) (fun t => t.getV VF == 1) = true := by decide

/-- T4.9 and T4.11. -/
theorem test_subReg :
    gives (run 0x8015 (withV [(0, 5), (1, 10)])) (fun t => t.getV 0 == 0xFB && t.getV VF == 0) = true ∧
    gives (run 0x8005 (withV [(0, 0x33)])) (fun t => t.getV 0 == 0 && t.getV VF == 1) = true := by decide

/-- T4.12 and T4.13. -/
theorem test_subn :
    gives (run 0x8017 (withV [(0, 5), (1, 10)])) (fun t => t.getV 0 == 5 && t.getV VF == 1) = true ∧
    gives (run 0x8017 (withV [(0, 10), (1, 5)])) (fun t => t.getV 0 == 0xFB && t.getV VF == 0) = true := by
  decide

/-- T4.16 and T4.15. -/
theorem test_shr :
    gives (run 0x8016 (withV [(0, 5), (1, 9)])) (fun t => t.getV 0 == 4 && t.getV VF == 1) = true ∧
    gives (run 0x8016 (under ({ · with shifting := true }) (withV [(0, 5), (1, 8)])))
      (fun t => t.getV 0 == 2 && t.getV VF == 1) = true := by decide

/-- T4.18 and T4.17. -/
theorem test_shl :
    gives (run 0x801E (withV [(0, 0x81), (1, 0x40)])) (fun t => t.getV 0 == 0x80 && t.getV VF == 0) = true ∧
    gives (run 0x801E (under ({ · with shifting := true }) (withV [(0, 0x81), (1, 0x40)])))
      (fun t => t.getV 0 == 0x02 && t.getV VF == 1) = true := by decide

/-- T4.29 to T4.32: VF as destination and as the value shifted. -/
theorem test_shifts_vf :
    gives (run 0x8F16 (withV [(15, 0x81), (1, 0xC3)])) (fun t => t.getV VF == 0) = true ∧
    gives (run 0x8F1E (withV [(15, 0x81), (1, 0xC3)])) (fun t => t.getV VF == 2) = true ∧
    gives (run 0x80F6 (withV [(0, 0x42), (15, 0x81)])) (fun t => t.getV 0 == 0x40 && t.getV VF == 1)
      = true ∧
    gives (run 0x80FE (under ({ · with shifting := true }) (withV [(0, 0x42), (15, 0x81)])))
      (fun t => t.getV 0 == 0x84 && t.getV VF == 0) = true := by decide

/-- T4.19, for the byte that the vector names. -/
theorem test_rnd : (randomInto 0xB7 0 0x0F State.reset).getV 0 = 0x07 := by decide

/-- T4.20: with a mask of 0 the byte drawn does not show. -/
theorem test_rnd_zero_mask :
    ∃ t, exec (.rnd 0 0x00) (withV [(0, 9)]) = .next t ∧ t.getV 0 = 0x00 :=
  ⟨_, rfl, by simp [randomInto]⟩

/-! ### Index register and memory -/

/-- T5.1. -/
theorem test_ldI : gives (run 0xA22A State.reset) (fun t => t.index == 0x022A) = true := by decide

/-- T5.2 and T5.3: no mask to 12 bits, no flag, 16 bits. -/
theorem test_addI :
    gives (run 0xF01E { withV [(0, 5), (15, 9)] with index := 0x0FFE })
      (fun t => t.index == 0x1003 && t.getV VF == 9) = true ∧
    gives (run 0xF01E { withV [(0, 2)] with index := 0xFFFF }) (fun t => t.index == 0x0001) = true := by
  decide

/-- T5.4 and T5.5. -/
theorem test_ldF :
    gives (run 0xF029 (withV [(0, 2)])) (fun t => t.index == 0x000A) = true ∧
    gives (run 0xF029 (withV [(0, 0x1A)])) (fun t => t.index == 0x0032) = true := by decide

/-- T6.1. -/
theorem test_ldB :
    gives (run 0xF033 { withV [(0, 254)] with index := 0x300 })
      (fun t => t.mem.readBytes 0x300 3 == [2, 5, 4] && t.index == 0x0300) = true := by decide

/-- T6.4 and T6.5. -/
theorem test_ldB_faults :
    faultsAs (run 0xF033 { withV [(0, 123)] with index := 0xFFE })
      (fun f => f == .addressOutOfRange 0x1000 f.left)
      (fun t => t.pc == 0x0202 && t.mem.readBytes 0xFFE 2 == [0, 0]) = true ∧
    faultsAs (run 0xF033 { withV [(0, 123)] with index := 0x04E }) (fun f => f == .fontWrite 0x4E f.left)
      (fun t => t.pc == 0x0202 && t.readByte 0x50 == 0) = true := by decide

/-- T6.7, with `Q.memory`. -/
theorem test_ldMemVx :
    gives (run 0xF255 { under ({ · with memory := true }) (withV [(0, 0x11), (1, 0x22), (2, 0x33)]) with
        index := 0x0400 })
      (fun t => t.mem.readBytes 0x400 4 == [0x11, 0x22, 0x33, 0] && t.index == 0x0403) = true := by decide

/-- T6.11 and T6.12. -/
theorem test_ldMemVx_faults :
    faultsAs (run 0xF255 { withV [(0, 1), (1, 2), (2, 3)] with index := 0xFFE })
      (fun f => f == .addressOutOfRange 0x1000 f.left)
      (fun t => t.mem.readBytes 0xFFE 2 == [0, 0]) = true ∧
    faultsAs (run 0xF055 { withV [(0, 1)] with index := 0x04F }) (fun f => f == .fontWrite 0x4F f.left)
      (fun t => t.readByte 0x04F == 0x80) = true := by decide

/-- T6.16. -/
theorem test_ldVxMem :
    gives (run 0xF265 { withBytes 0x300 [2, 5, 4] (withV [(3, 7)]) with index := 0x300 })
      (fun t => t.getV 0 == 2 && t.getV 1 == 5 && t.getV 2 == 4 && t.getV 3 == 7 && t.index == 0x300)
      = true := by decide

/-- T6.15: the font is readable, and `Q.memory` moves the index register. -/
theorem test_ldVxMem_font :
    gives (run 0xFF65 (under ({ · with memory := true }) State.reset))
      (fun t => t.v.toList == [0xF0, 0x90, 0x90, 0x90, 0xF0, 0x20, 0x60, 0x20, 0x20, 0x70, 0xF0, 0x10,
        0xF0, 0x80, 0xF0, 0xF0] && t.index == 0x0010) = true := by decide

/-! ### Display -/

/-- T7.1. -/
theorem test_cls :
    gives (run 0x00E0 ((withV [(15, 1)]).setDisp (Screen.blank.toggle 3 4)))
      (fun t => !t.pixel 3 4 && t.getV VF == 1) = true := by decide

/-- T7.5 and T7.6: clipped, and wrapped. -/
theorem test_drw_edge :
    gives (run 0xD011 (under ({ · with clipping := true })
        { withBytes 0x300 [0xFF] (withV [(0, 60)]) with index := 0x300 }))
      (fun t => t.pixel 60 0 && t.pixel 63 0 && !t.pixel 0 0 && t.getV VF == 0) = true ∧
    gives (run 0xD011 { withBytes 0x300 [0xFF] (withV [(0, 60)]) with index := 0x300 })
      (fun t => !t.pixel 59 0 && t.pixel 60 0 && t.pixel 0 0 && t.pixel 3 0 && !t.pixel 4 0) = true := by
  decide

/-- T7.4, with the pixel set before: the start wraps, the pixel is unset, VF is 1. -/
theorem test_drw_collision :
    gives (run 0xD011 ({ withBytes 0x300 [0x80] (withV [(0, 70), (1, 33)]) with
        index := 0x300 }.setDisp (Screen.blank.toggle 6 1)))
      (fun t => !t.pixel 6 1 && t.getV VF == 1) = true := by decide

/-- Program P3, first draw: the glyph 2 at the corner, wrapped in both directions, and clipped. -/
theorem test_drw_glyph :
    gives (run 0xD125 { withV [(1, 62), (2, 30)] with index := 0x00A })
      (fun t => t.pixel 62 30 && t.pixel 1 30 && t.pixel 1 31 && !t.pixel 0 31 && t.pixel 62 1 &&
        !t.pixel 63 1 && t.pixel 1 2 && !t.pixel 2 2 && t.getV VF == 0) = true ∧
    gives (run 0xD125 (under ({ · with clipping := true })
        { withV [(1, 62), (2, 30)] with index := 0x00A }))
      (fun t => t.pixel 62 30 && t.pixel 63 30 && !t.pixel 0 30 && !t.pixel 62 31 && !t.pixel 63 31 &&
        !t.pixel 62 0 && t.getV VF == 0) = true := by decide

/-- T7.7: the column comes from VF before it is zeroed. -/
theorem test_drw_vf :
    gives (run 0xDF01 { withBytes 0x300 [0xFF] (withV [(15, 5)]) with index := 0x300 })
      (fun t => !t.pixel 4 0 && t.pixel 5 0 && t.pixel 12 0 && !t.pixel 13 0 && t.getV VF == 0) = true := by
  decide

/-- T7.8 and T7.9. -/
theorem test_drw_empty :
    gives (run 0xD000 { withV [(15, 7)] with index := 0x1000 }) (fun t => t.getV VF == 0) = true ∧
    faultsAs (run 0xD001 { withV [(15, 7)] with index := 0x1000 })
      (fun f => f == .addressOutOfRange 0x1000 f.left)
      (fun t => t.pc == 0x0202 && t.getV VF == 7) = true := by decide

/-! ### Keypad -/

/-- T8.1 and T8.2. -/
theorem test_skp :
    gives (run 0xE39E (setKey 10 .down (withV [(3, 10)]))) (fun t => t.pc == 0x0204) = true ∧
    gives (run 0xE39E (withV [(3, 10)])) (fun t => t.pc == 0x0202) = true := by decide

/-- T8.3 and T8.6. -/
theorem test_sknp :
    gives (run 0xE0A1 (withV [(0, 15)])) (fun t => t.pc == 0x0204) = true ∧
    faultsAs (run 0xE0A1 (withV [(0, 0xFF)])) (fun f => f == .keyIndexOutOfRange 0xFF f.left)
      (fun t => t.pc == 0x0202) = true := by decide

/-- T8.7 and T8.8. -/
theorem test_ldVxK :
    gives (run 0xF50A State.reset) (fun t => t.pc == 0x0200) = true ∧
    gives (run 0xF50A (setKey 9 .down (setKey 7 .down State.reset)))
      (fun t => t.getV 5 == 7 && t.pc == 0x0202 && t.latch == none) = true := by decide

/-- T8.9 and T8.11. -/
theorem test_ldVxK_release :
    gives (run 0xF50A (under ({ · with release := true })
        (setKey 9 .down (setKey 7 .down State.reset))))
      (fun t => t.getV 5 == 7 && t.pc == 0x0200 && t.latch == some 7) = true ∧
    gives (run 0xF50A (under ({ · with release := true })
        ((setKey 2 .down (withV [(5, 7)])).setLatch (some 7))))
      (fun t => t.getV 5 == 7 && t.pc == 0x0202 && t.latch == none) = true := by decide

/-! ### Timers and the host's operations -/

/-- T9.1. -/
theorem test_ldVxDt : gives (run 0xF207 (State.reset.setDt 0x3C)) (fun t => t.getV 2 == 0x3C) = true := by
  decide

/-- T9.2. -/
theorem test_ldDtVx : gives (run 0xF115 (withV [(1, 0x3C)])) (fun t => t.dt == 0x3C) = true := by decide

/-- T9.3. -/
theorem test_ldStVx : gives (run 0xF118 (withV [(1, 5)])) (fun t => t.st == 5 && t.dt == 0) = true := by
  decide

/-- T9.4 and T9.6. -/
theorem test_tickTimers :
    timerOutputs (tickTimers ((State.reset.setDt 2).setSt 1)) = (1, 0) ∧
    timerOutputs (tickTimers State.reset) = (0, 0) := by decide

/-- T10.1. -/
theorem test_load :
    (load [0x60, 0x0A] State.reset).state.mem = [(0x200, 0x60), (0x201, 0x0A)] := by decide

/-- T10.4. -/
theorem test_setKey :
    (setKey 4 .down State.reset).getKey 4 = .down ∧ (setKey 4 .down State.reset).getKey 5 = .up := by decide

/-- `reset` does not rewind the random source (60_exceptions.md R190), and clears the registers (T10.5). -/
theorem test_reset_keeps_draws :
    (hostReset font { withV [(3, 9)] with draws := 7 }).draws = 7 ∧
    (hostReset font { withV [(3, 9)] with draws := 7 }).getV 3 = 0 := by decide

/-- The framebuffer is row-major: pixel (3, 1) is at index 67 (10_state.md R33). -/
theorem test_framebuffer :
    framebuffer (State.reset.setDisp (Screen.blank.toggle 3 1)) 67 = true := by decide

/-! ### Witnesses: for each statement with hypotheses, concrete inputs that meet them, for each clause at
a boundary of its range -/

/-- `SafeRun` is met: one step of a jump to itself. -/
theorem witness_SafeRun : SafeRun 1 (State.reset.withFetchWord 16 0x1200) := by
  obtain ⟨t, ht, -⟩ := next_of_gives
    (show gives (Host.Core.run Sys2Proof.core 1 (State.reset.withFetchWord 16 0x1200)) (fun _ => true) = true
      by decide)
  exact ⟨t, ht⟩

theorem witness_DecodeOfEncode : (Instr.jpV0 0xF23 15).wellFormed = true := by decide

theorem witness_EncodeOfDecode : decode 0xFF65 = .ok (.ldVxMem 15) := by decide

/-- The top of memory, 0xFFE, where a word can just be fetched. -/
def atTop (w : Nat) : State := { State.reset with pc := 0xFFE }.withFetchWord 16 w

theorem witness_StepRunsTheDecodedInstruction :
    (atTop 0x1204).pc.toNat ≤ 0xFFE ∧ decode (BitVec.ofNat 16 (wordAtPc (atTop 0x1204))) = .ok (.jp 0x204) := by
  decide

theorem witness_UndefinedWordFaultsAfterTheAdvance :
    (atTop 0x8018).pc.toNat ≤ 0xFFE ∧
    ∀ i, decode (BitVec.ofNat 16 (wordAtPc (atTop 0x8018))) ≠ .ok i := by
  have h : decode (BitVec.ofNat 16 (wordAtPc (atTop 0x8018))) = .error (.undefinedWord 0x8018) := by decide
  refine ⟨by decide, fun i hi => ?_⟩
  rw [h] at hi
  cases hi

theorem witness_FetchOutsideMemoryFaults : 0xFFE < ({ State.reset with pc := 0xFFF } : State).pc.toNat := by
  decide

theorem fault_of_faultsAs {o : Outcome} {p : Fault → Bool} {q : State → Bool}
    (h : faultsAs o p q = true) : ∃ f, o = .fault f := by
  cases o with
  | next t => cases h
  | fault f => exact ⟨f, rfl⟩
  | refused r => cases h

/-- Both ways to fault: in the fetch, and after it. -/
theorem witness_FaultedStepLeavesOnlyThePcAdvanced :
    (∃ f, step { State.reset with pc := 0xFFF } = .fault f) ∧ (∃ f, step (atTop 0x00EE) = .fault f) :=
  ⟨fault_of_faultsAs (show faultsAs _ (fun _ => true) (fun _ => true) = true by decide),
    fault_of_faultsAs (show faultsAs _ (fun _ => true) (fun _ => true) = true by decide)⟩

/-- An instruction that nothing can make fault, in any state. -/
theorem witness_HandlersRaiseOnlyTheListedFaults : ∀ g, ¬ RaisedBy State.reset g .cls := fun _ h => h

/-- A skip that skips, and one that does not, from the top of memory. -/
theorem witness_PcAdvancesByTwoOrSkipsByFour :
    (decode (BitVec.ofNat 16 (wordAtPc (atTop 0x3100))) = .ok (.seImm 1 0) ∧
      Transfers (.seImm 1 0) = false ∧ (∃ t, step (atTop 0x3100) = .next t) ∧
      SkipHolds (.seImm 1 0) (atTop 0x3100)) ∧
    (decode (BitVec.ofNat 16 (wordAtPc (atTop 0x4100))) = .ok (.sneImm 1 0) ∧
      Transfers (.sneImm 1 0) = false ∧ (∃ t, step (atTop 0x4100) = .next t) ∧
      ¬ SkipHolds (.sneImm 1 0) (atTop 0x4100)) := by
  refine ⟨⟨by decide, rfl, ?_, ?_⟩, ⟨by decide, rfl, ?_, ?_⟩⟩
  · exact (next_of_gives (show gives _ (fun _ => true) = true by decide)).imp fun _ h => h.1
  · show (atTop 0x3100).getV 1 = 0
    decide
  · exact (next_of_gives (show gives _ (fun _ => true) = true by decide)).imp fun _ h => h.1
  · show ¬ (atTop 0x4100).getV 1 ≠ 0
    decide

/-- For the statements about every instruction that answers a next state: one that does, for each clause
of `OnlyClearAndDrawChangePixels`, `MemoryStackAndLatchHaveFewWriters`,
`RegistersAndFlagHaveOnlyTheirWriters`, `DelayTimerInstructions`,
`SoundTimerIsWrittenAndNeverRead`, `TicksCountDownToZero`. -/
theorem witness_exec_next :
    (∃ t, exec (.jp 0xFFF) State.reset = .next t) ∧
    Instr.jp 0xFFF ≠ .cls ∧ (∀ x y n, Instr.jp 0xFFF ≠ .drw x y n) ∧ (∀ x, Instr.jp 0xFFF ≠ .ldB x) ∧
    (∀ x, Instr.jp 0xFFF ≠ .ldMemVx x) ∧ (∀ n, Instr.jp 0xFFF ≠ .call n) ∧ Instr.jp 0xFFF ≠ .ret ∧
    (∀ x, Instr.jp 0xFFF ≠ .ldVxK x) ∧ (∀ x, Instr.jp 0xFFF ≠ .ldDtVx x) ∧
    (∀ x, Instr.jp 0xFFF ≠ .ldStVx x) ∧ ¬ WritesV State.reset.quirks VF (.jp 0xFFF) := by
  refine ⟨⟨_, rfl⟩, ?_⟩
  simp [WritesV]

/-- FX65 up to VE leaves VF alone; 8XY1 leaves VF alone without the quirk. -/
theorem witness_RegistersAndFlag :
    ¬ WritesV State.reset.quirks VF (.ldVxMem 14) ∧ ¬ WritesV State.reset.quirks VF (.orReg 0 1) ∧
    (∃ t, exec (.ldVxMem 14) State.reset = .next t) ∧ (∃ t, exec (.orReg 0 1) State.reset = .next t) := by
  refine ⟨?_, ?_, ?_, ⟨_, rfl⟩⟩
  · show ¬ (15 : Nat) ≤ 14
    decide
  · simp [WritesV, VF, State.reset, State.initial, defaultQuirks]
  · exact (next_of_gives (show gives _ (fun _ => true) = true by decide)).imp fun _ h => h.1

/-- A state at the bounds of the invariant, about to run BFFF at the top of memory. -/
def atBounds : State :=
  { (withV [(0, 0xFF)]).setStackEntry 0 0x1000 with pc := 0xFFE, sp := 1 }.withFetchWord 16 0xBFFF

theorem witness_EveryStepKeepsTheInvariant : Inv atBounds ∧ ∃ t, step atBounds = .next t :=
  ⟨⟨by decide, by decide, by decide, fun _ => by decide⟩,
    (next_of_gives (show gives _ (fun _ => true) = true by decide)).imp fun _ h => h.1⟩

/-- `pc` at its greatest value, where the next step faults, and FX0A waiting for a release. -/
theorem witness_EveryHostOperationKeepsTheInvariant :
    Inv { State.reset with pc := 0x10FE } ∧
    Inv (under ({ · with release := true }) (State.reset.setLatch (some 15))) :=
  ⟨⟨by decide, by decide, by decide, fun _ => by decide⟩,
    ⟨by decide, by decide, by decide, fun h => by cases h⟩⟩

theorem witness_FontRegionIsNeverWritten :
    atBounds.mem.wf = true ∧ HostOp.step ≠ .reset ∧ HostOp.load (List.replicate 3584 0xFF) ≠ .reset ∧
    79 < 80 := by
  refine ⟨by decide, ?_, ?_, by decide⟩ <;> intro h <;> cases h

theorem witness_JumpToItself : (atTop 0x1FFE).pc.toNat ≤ 0xFFE ∧
    wordAtPc (atTop 0x1FFE) = 0x1000 + (atTop 0x1FFE).pc.toNat := by decide

/-- The first and the last entry of the stack. -/
theorem witness_CallPushesTheReturnAddress :
    State.reset.sp.val = (0 : Fin 16).val ∧ ({ State.reset with sp := 15 } : State).sp.val = (15 : Fin 16).val := by
  decide

theorem witness_ReturnPopsTheReturnAddress :
    ({ State.reset with sp := 1 } : State).sp.val = (0 : Fin 16).val + 1 ∧
    ({ State.reset with sp := 16 } : State).sp.val = (15 : Fin 16).val + 1 := by decide

theorem witness_ReturnUndoesACall : ∃ t, exec (.call 0x300) { State.reset with sp := 15 } = .next t :=
  (next_of_gives (show gives _ (fun _ => true) = true by decide)).imp fun _ h => h.1

theorem witness_StackOverflowAndUnderflowFault :
    ({ State.reset with sp := 16 } : State).sp.val = 16 ∧ State.reset.sp.val = 0 := by decide

theorem witness_OffsetJumpAddsARegister : (15 : Reg).val = (0xF23 : Addr).toNat / 256 := by decide

/-- Both values of the quirk, with VF as the destination and as the other operand. -/
theorem witness_LogicalOperations :
    ∃ s s' : State, s.quirks.vfReset = true ∧ s'.quirks.vfReset = false ∧
      (0 : Byte) = (if s.quirks.vfReset = true ∧ VF = VF then 0 else s.getV VF) ∧
      (0x0A : Byte) = (if s.quirks.vfReset = true ∧ (1 : Reg) = VF then 0 else s.getV 1) ∧
      (0x0C : Byte) = (if s'.quirks.vfReset = true ∧ VF = VF then 0 else s'.getV VF) :=
  ⟨under ({ · with vfReset := true }) (withV [(1, 0x0A), (15, 0x0C)]), withV [(15, 0x0C)],
    by decide, by decide, by decide, by decide, by decide⟩

/-- Both values of the quirk; `x ≠ VF` and `x = VF` are both possible. -/
theorem witness_ShiftsByOnePlace :
    ∃ s s' : State, s.quirks.shifting = true ∧ s'.quirks.shifting = false ∧
      0x81 = (if s.quirks.shifting then s.getV 0 else s.getV 1).toNat ∧
      0xC3 = (if s'.quirks.shifting then s'.getV VF else s'.getV 1).toNat ∧ (0 : Reg) ≠ VF :=
  ⟨under ({ · with shifting := true }) (withV [(0, 0x81), (1, 0xC3)]), withV [(0, 0x81), (1, 0xC3)],
    by decide, by decide, by decide, by decide, by decide⟩

/-- The lowest and the highest index at which FX33 stores. -/
theorem witness_StoreDecimalDigits :
    ∃ s s' : State, s.mem.wf = true ∧ s'.mem.wf = true ∧ 80 = s.index.toNat ∧ s.index.toNat + 2 ≤ 0xFFF ∧
      80 ≤ s'.index.toNat ∧ s'.index.toNat + 2 = 0xFFF :=
  ⟨{ State.reset with index := 0x050 }, { State.reset with index := 0xFFD },
    by decide, by decide, by decide, by decide, by decide, by decide⟩

/-- The lowest and the highest index at which FF55 and FF65 work, with the quirk. -/
theorem witness_StoreRegisters_LoadRegisters :
    ∃ s s' : State, s.mem.wf = true ∧ s'.mem.wf = true ∧ 80 = s.index.toNat ∧
      s.index.toNat + (15 : Reg).val ≤ 0xFFF ∧ 80 ≤ s'.index.toNat ∧
      s'.index.toNat + (15 : Reg).val = 0xFFF ∧ s'.quirks.memory = true :=
  ⟨{ State.reset with index := 0x050 },
    under ({ · with memory := true }) { State.reset with index := 0xFF0 },
    by decide, by decide, by decide, by decide, by decide, by decide, by decide⟩

/-- The first index past the range of each instruction, and the last byte of the font. -/
theorem witness_StoresAndLoadsFaultOutsideTheirRange :
    ∃ s s' s'' : State, 0xFFF < s.index.toNat + 2 ∧ 0xFFF < s'.index.toNat + (15 : Reg).val ∧
      s''.index.toNat < 80 :=
  ⟨{ State.reset with index := 0xFFE }, { State.reset with index := 0xFF1 },
    { State.reset with index := 0x04F }, by decide, by decide, by decide⟩

theorem witness_MemoryPrimitivesCheckTheWholeRange :
    1 ≤ 1 ∧ [(7 : Byte)].length = 1 ∧ 0xFFF < 0x1000 + 1 - 1 ∧ 0xFFF + 1 - 1 ≤ 0xFFF ∧ 79 < 80 ∧
    80 ≤ 0xFFF ∧ State.reset.mem.wf = true := by decide

/-- The first state in which FF55 stores; the loading state is the one it leaves, without the quirk. -/
theorem witness_StoreThenLoadRestoresRegisters :
    ∃ s t : State, s.mem.wf = true ∧ exec (.ldMemVx 15) s = .next t ∧ t.mem = t.mem ∧ t.index = s.index := by
  obtain ⟨t, ht, hi⟩ := next_of_gives
    (show gives (exec (.ldMemVx 15) { withV [(0, 1), (15, 2)] with index := 0xFF0 })
      (fun t => t.index == 0xFF0) = true by decide)
  exact ⟨_, t, by decide, ht, rfl, by simpa using hi⟩

/-- The store of program P5, at the address it runs from. -/
theorem witness_StoredWordIsFetchedByTheNextStep :
    ∃ s t : State, s.mem.wf = true ∧ 1 ≤ (1 : Reg).val ∧ s.pc = s.index ∧
      exec (.ldMemVx 1) s = .next t ∧
      decode (BitVec.ofNat 16 ((s.getV 0).toNat * 256 + (s.getV 1).toNat)) = .ok (.ldImm 2 0x77) := by
  obtain ⟨t, ht, -⟩ := next_of_gives
    (show gives (exec (.ldMemVx 1) { withV [(0, 0x62), (1, 0x77)] with index := 0x208, pc := 0x208 })
      (fun _ => true) = true by decide)
  exact ⟨_, t, by decide, by decide, by decide, ht, by decide⟩

/-- A sprite of 15 rows that ends at 0xFFF, and no sprite at an index beyond memory. -/
theorem witness_DrawTogglesExactlyTheSprite :
    ∃ s s' : State, s.index.toNat + (15 : Fin 16).val - 1 ≤ 0xFFF ∧ s.index.toNat = 0xFF1 ∧
      (0 : Fin 16).val = 0 ∧ s'.index.toNat = 0xFFFF ∧ 6 = (s.getV 0).toNat % 64 ∧
      1 = (s.getV 1).toNat % 32 :=
  ⟨{ withV [(0, 70), (1, 33)] with index := 0xFF1 }, { State.reset with index := 0xFFFF },
    by decide, by decide, by decide, by decide, by decide, by decide⟩

/-- A sprite of one pixel over a set pixel, wrapped, and over a blank display, clipped: the two values of
VF. -/
theorem witness_DrawTogglesExactlyTheSprite_collision :
    (∃ s : State, SpriteCovers s.quirks.clipping 63 31 (spriteAt s 1) 0 31 ∧
      s.pixel (0 : Fin 64).val (31 : Fin 32).val = true) ∧
    (∃ s : State, s.quirks.clipping = true ∧
      SpriteCovers s.quirks.clipping 63 31 (spriteAt s 1) 63 31 ∧
      ∀ (p : Fin 64) (q : Fin 32), s.pixel p.val q.val = false) := by
  refine ⟨⟨({ withBytes 0x300 [0x40] State.reset with index := 0x300 } : State).setDisp
    (Screen.blank.toggle 0 31), ⟨0, 1, 0x40, by decide, by decide, by decide, by decide⟩, by decide⟩,
    ⟨under ({ · with clipping := true }) { withBytes 0x300 [0x80] State.reset with index := 0x300 },
      by decide, ⟨0, 0, 0x80, by decide, by decide, by decide, by decide⟩, fun p q => ?_⟩⟩
  exact Screen.pixel_blank p.val q.val

theorem witness_DrawFaultsWhenTheSpriteLeavesMemory :
    ∃ s : State, (1 : Fin 16).val ≠ 0 ∧ 0xFFF < s.index.toNat + (1 : Fin 16).val - 1 :=
  ⟨{ State.reset with index := 0x1000 }, by decide, by decide⟩

/-- A sprite of one pixel on a blank display. -/
theorem witness_DrawingTwiceRestoresTheDisplay :
    ∃ s t : State, (0 : Reg) ≠ VF ∧ (1 : Reg) ≠ VF ∧ exec (.drw 0 1 1) s = .next t ∧
      (∀ (p : Fin 64) (q : Fin 32), s.pixel p.val q.val = false) ∧
      SpriteCovers s.quirks.clipping ((s.getV 0).toNat % 64) ((s.getV 1).toNat % 32) (spriteAt s 1) 0 0 := by
  obtain ⟨t, ht, -⟩ := next_of_gives
    (show gives (exec (.drw 0 1 1) { withBytes 0x300 [0x80] State.reset with index := 0x300 })
      (fun _ => true) = true by decide)
  exact ⟨_, t, by decide, by decide, ht, fun p q => Screen.pixel_blank p.val q.val,
    ⟨0, 0, 0x80, by decide, by decide, by decide, by decide⟩⟩

/-- The greatest key number, and the least number that is none. -/
theorem witness_key_numbers :
    ((withV [(0, 15)]).getV 0).toNat = (15 : Key).val ∧ 15 < ((withV [(0, 16)]).getV 0).toNat := by decide

/-- One state for each row of the table: keys 0 and 15 are the bounds. -/
theorem witness_KeyWaitStateMachine :
    (State.reset.latch = none ∧ ∀ k, State.reset.getKey k = .up) ∧
    ((setKey 15 .down State.reset).quirks.release = false ∧ (setKey 15 .down State.reset).latch = none ∧
      (setKey 15 .down State.reset).getKey 15 = .down ∧
      ∀ j, j < 15 → (setKey 15 .down State.reset).getKey j = .up) ∧
    (∃ s : State, s.quirks.release = true ∧ s.latch = none ∧ s.getKey 0 = .down ∧
      ∀ j, j < 0 → s.getKey j = .up) ∧
    (∃ s : State, s.quirks.release = true ∧ s.latch = some 15 ∧ s.getKey 15 = .down) ∧
    (∃ s : State, s.quirks.release = true ∧ s.latch = some 0 ∧ s.getKey 0 = .up) := by
  refine ⟨by decide, by decide, ⟨under ({ · with release := true }) (setKey 0 .down State.reset), ?_⟩,
    ⟨under ({ · with release := true }) ((setKey 15 .down State.reset).setLatch (some 15)), ?_⟩,
    ⟨under ({ · with release := true }) (State.reset.setLatch (some 0)), ?_⟩⟩ <;> decide

/-- The longest image accepted and the shortest one refused. -/
theorem witness_LoadCopiesTheImageOrRefusesIt :
    (List.replicate 3584 (0xFF : Byte)).length ≤ 3584 ∧ 3584 < (List.replicate 3585 (0xFF : Byte)).length ∧
    State.reset.mem.wf = true := by
  simp only [List.length_replicate]
  decide

theorem witness_HostResetRestoresTheResetValues :
    ∃ t : State, t = hostReset font atBounds := ⟨_, rfl⟩

/-- CXNN as the last instruction before a reset. -/
theorem witness_NoRandomDrawIsUsedTwice : ∃ t, exec (.rnd 0 0xFF) atBounds = .next t := ⟨_, rfl⟩

end Sys2Proof.Tests
end

/-! SUPPORT. Decoding encoded instructions, and the step from an encoded word: shared by every family. -/

namespace Sys2Proof

/-- The decoder undoes the encoder, family by family (30_encoding.md R75, R82). Only BNNN needs
well-formedness: its word holds X inside NNN (R79). -/
theorem decode_encode {i : Instr} (h : i.wellFormed = true) : decode (encode i) = .ok i := by
  cases i
  case cls => rfl
  case ret => rfl
  case jpV0 nnn x =>
    have hx (f : BitVec 4) : fieldX (formatNNN f nnn) = x := by
      apply Fin.ext
      rw [fieldX_formatNNN]
      simpa [Instr.wellFormed, highNibbleIs] using h
    simp [encode, decode, hx]
  case jp | call | ldI | seImm | sneImm | ldImm | addImm | rnd | drw => simp [encode, decode]
  case seReg | sneReg => simp [encode, decode, decodeCompare]
  case ldReg | orReg | andReg | xorReg | addReg | subReg | shr | subn | shl =>
    simp [encode, decode, decodeRegister]
  case skp | sknp => simp [encode, decode, decodeKey]
  case ldVxDt | ldDtVx | ldStVx | ldVxK | addI | ldF | ldB | ldMemVx | ldVxMem =>
    simp [encode, decode, decodeMisc]

end Sys2Proof

namespace Sys2Proof.Machine

/-- A number is encoded as a well-formed instruction if it is the value of the instruction's word. -/
theorem encodedAs_of_encode {w : Nat} {i : Instr} (h : i.wellFormed = true)
    (hw : (encode i).toNat = w) : EncodedAs w i := by
  subst hw
  refine ⟨(encode i).isLt, ?_⟩
  rw [BitVec.ofNat_toNat, BitVec.setWidth_eq]
  exact decode_encode h

/-- The step on a word that encodes `i` runs `i` with `pc` advanced (40_engine_cycle.md R90 to R93). -/
theorem step_of_encodedAs {s : State} {i : Instr} (hp : s.pc.toNat ≤ 0xFFE)
    (h : EncodedAs (wordAtPc s) i) : step s = exec i s.advance := by
  rw [step_inside s hp, wordOfBytes_at_pc, runWord_ok h.2]

@[simp] theorem zeroExtend_toNat (nnn : Addr) : (zeroExtend nnn).toNat = nnn.toNat :=
  BitVec.toNat_setWidth_of_le (by decide)

/-! ### Jumps and register skips (41_control_flow.md R101, R103 to R106) -/

theorem exec_jp (nnn : Addr) (s : State) : exec (.jp nnn) s = .next (s.setPc (zeroExtend nnn)) := rfl

theorem encodedAs_jp (nnn : Addr) : EncodedAs (0x1000 + nnn.toNat) (.jp nnn) :=
  encodedAs_of_encode rfl (formatNNN_toNat 0x1 nnn)

theorem encodedAs_seImm (x : Reg) (nn : Byte) :
    EncodedAs (0x3000 + x.val * 256 + nn.toNat) (.seImm x nn) :=
  encodedAs_of_encode rfl (formatXNN_toNat 0x3 x nn)

theorem encodedAs_sneImm (x : Reg) (nn : Byte) :
    EncodedAs (0x4000 + x.val * 256 + nn.toNat) (.sneImm x nn) :=
  encodedAs_of_encode rfl (formatXNN_toNat 0x4 x nn)

theorem encodedAs_seReg (x y : Reg) : EncodedAs (0x5000 + x.val * 256 + y.val * 16) (.seReg x y) :=
  encodedAs_of_encode rfl (formatXYN_toNat 0x5 x y 0)

theorem encodedAs_sneReg (x y : Reg) : EncodedAs (0x9000 + x.val * 256 + y.val * 16) (.sneReg x y) :=
  encodedAs_of_encode rfl (formatXYN_toNat 0x9 x y 0)

/-- An address within the opcode's 12 bits comes back whole from a jump's operand. -/
theorem zeroExtend_setWidth {w : Word} (h : w.toNat ≤ 0xFFF) : zeroExtend (w.setWidth 12) = w := by
  apply BitVec.eq_of_toNat_eq
  rw [zeroExtend_toNat, BitVec.toNat_setWidth]
  omega

/-- A jump to its own address comes back to the state it started from: the cycle's advance is undone
(41_control_flow.md R101). -/
theorem step_jump_to_itself {s : State} (hp : s.pc.toNat ≤ 0xFFE)
    (hw : wordAtPc s = 0x1000 + s.pc.toNat) : step s = .next s := by
  have hz : zeroExtend (s.pc.setWidth 12) = s.pc := zeroExtend_setWidth (by omega)
  have hn : (s.pc.setWidth 12).toNat = s.pc.toNat := by rw [← zeroExtend_toNat, hz]
  have henc : EncodedAs (wordAtPc s) (.jp (s.pc.setWidth 12)) := by
    rw [hw, ← hn]
    exact encodedAs_jp _
  rw [step_of_encodedAs hp henc, exec_jp, hz]
  rfl

/-- What a skip does, whatever its condition `P`: `pc` moves on by 2 exactly if `P`, and nothing else
changes (41_control_flow.md R103). -/
theorem skip_spec {o : Outcome} {c : Bool} {P : Prop} [Decidable P] {s : State}
    (ho : o = .next (skipIf c s)) (hc : c = true ↔ P) :
    ∃ t, o = .next t ∧ t.pc = (if P then s.pc + 2 else s.pc) ∧
      UnchangedExcept (fun p => p = .pc) s t :=
  ⟨skipIf c s, ho, by simp [skipIf_eq, hc], skipIf_frame c s⟩

/-- Settles O22: the jump's target is its zero-extended operand, and the self-jump is
`step_jump_to_itself`. -/
theorem jumpLoadsItsTarget : Obligations.JumpLoadsItsTarget :=
  ⟨fun nnn s => ⟨encodedAs_jp nnn, _, exec_jp nnn s, zeroExtend_toNat nnn, setPc_frame s _⟩,
    fun _ => step_jump_to_itself⟩

/-- Settles O27: both instructions are `skipIf`, on equality and on inequality with NN. -/
theorem skipsOnAnImmediate : Obligations.SkipsOnAnImmediate := fun x nn _ =>
  ⟨⟨encodedAs_seImm x nn, skip_spec rfl beq_iff_eq⟩,
    ⟨encodedAs_sneImm x nn, skip_spec rfl bne_iff_ne⟩⟩

/-- Settles O28: both instructions are `skipIf`, on equality and on inequality of two registers. -/
theorem skipsOnTwoRegisters : Obligations.SkipsOnTwoRegisters := fun x y _ =>
  ⟨⟨encodedAs_seReg x y, skip_spec rfl beq_iff_eq⟩,
    ⟨encodedAs_sneReg x y, skip_spec rfl bne_iff_ne⟩⟩

end Sys2Proof.Machine

namespace Sys2Proof.Machine

/-! ### Loads, logic, sums and differences (42_register_alu.md R110 to R117, R119) -/

theorem encodedAs_ldImm (x : Reg) (nn : Byte) :
    EncodedAs (0x6000 + x.val * 256 + nn.toNat) (.ldImm x nn) :=
  encodedAs_of_encode rfl (formatXNN_toNat 0x6 x nn)

theorem encodedAs_addImm (x : Reg) (nn : Byte) :
    EncodedAs (0x7000 + x.val * 256 + nn.toNat) (.addImm x nn) :=
  encodedAs_of_encode rfl (formatXNN_toNat 0x7 x nn)

/-- The words of family 8: the last digit selects the operation (30_encoding.md R74). -/
theorem encodedAs_family8 {i : Instr} {x y : Reg} (n : Fin 16) (h : i.wellFormed = true)
    (he : encode i = formatXYN 0x8 x y n) :
    EncodedAs (0x8000 + n.val + x.val * 256 + y.val * 16) i := by
  refine encodedAs_of_encode h ?_
  have h8 : (0x8 : BitVec 4).toNat = 8 := rfl
  rw [he, formatXYN_toNat, h8]
  omega

/-- `BitVec.toNat_sub` with the sum in the order in which the statements write it. -/
theorem byte_sub_toNat (a b : Byte) : (a - b).toNat = (256 + a.toNat - b.toNat) % 256 := by
  rw [BitVec.toNat_sub]
  have := b.isLt
  omega

theorem flagByte_eq {c : Bool} {P : Prop} [Decidable P] (hc : c = true ↔ P) :
    flagByte c = if P then 1 else 0 := by
  simp only [flagByte, hc]

/-- With the quirk VF reads 0 and every other register as before; without it nothing changes. -/
theorem resetFlagIfQuirk_getV (s : State) (r : Reg) :
    (resetFlagIfQuirk s).getV r = if s.quirks.vfReset = true ∧ r = VF then 0 else s.getV r := by
  rw [resetFlagIfQuirk]
  split
  next hq => simp only [State.setV_getV, hq, true_and]
  next hq => exact (if_neg (fun h => hq h.1)).symm

theorem resultThenFlag_getV_VF (x : Reg) (result flag : Byte) (s : State) :
    (resultThenFlag x result flag s).getV VF = flag :=
  State.setV_getV_same ..

theorem resultThenFlag_getV {x : Reg} (hx : x ≠ VF) (result flag : Byte) (s : State) :
    (resultThenFlag x result flag s).getV x = result := by
  rw [resultThenFlag, State.setV_getV_other _ _ _ _ hx, State.setV_getV_same]

/-- What 8XY1, 8XY2 and 8XY3 do, whatever their function `f`: VX takes `f` of the operands as they stand
after the quirk's zeroing of VF, and that zero stays unless VF is the destination
(42_register_alu.md R113 to R115). -/
theorem logicOp_spec {o : Outcome} {f : Byte → Byte → Byte} {x y : Reg} {s : State} {a b : Byte}
    (ho : o = .next (logicOp f x y s))
    (ha : a = (if s.quirks.vfReset = true ∧ x = VF then 0 else s.getV x))
    (hb : b = (if s.quirks.vfReset = true ∧ y = VF then 0 else s.getV y)) :
    ∃ t, o = .next t ∧ t.getV x = f a b ∧
      (s.quirks.vfReset = true → x ≠ VF → t.getV VF = 0) ∧
      UnchangedExcept (fun p => p = .v x ∨ (s.quirks.vfReset = true ∧ p = .v VF)) s t := by
  refine ⟨logicOp f x y s, ho, ?_, fun hq hx => ?_, logicOp_frame f x y s⟩
  · rw [ha, hb, ← resetFlagIfQuirk_getV, ← resetFlagIfQuirk_getV]
    exact State.setV_getV_same ..
  · rw [logicOp, State.setV_getV_other _ _ _ _ hx.symm, resetFlagIfQuirk_getV, if_pos ⟨hq, rfl⟩]

/-- What 8XY4, 8XY5 and 8XY7 do, whatever the result and the condition `P` of the flag: VF ends with the
flag, VX with the result unless VF is the destination (42_register_alu.md R122). -/
theorem resultThenFlag_spec {o : Outcome} {x : Reg} {result : Byte} {c : Bool} {s : State} {n : Nat}
    {P : Prop} [Decidable P] (ho : o = .next (resultThenFlag x result (flagByte c) s))
    (hn : result.toNat = n) (hc : c = true ↔ P) :
    ∃ t, o = .next t ∧ (x ≠ VF → (t.getV x).toNat = n) ∧ t.getV VF = (if P then 1 else 0) ∧
      UnchangedExcept (fun p => p = .v x ∨ p = .v VF) s t := by
  refine ⟨_, ho, fun hx => ?_, ?_, resultThenFlag_frame x _ _ s⟩
  · rw [resultThenFlag_getV hx, hn]
  · rw [resultThenFlag_getV_VF, flagByte_eq hc]

/-- Settles O30: each of the three is one `setV` of VX. -/
theorem loadsAndImmediateAdd : Obligations.LoadsAndImmediateAdd := by
  intro x y nn s
  refine ⟨⟨encodedAs_ldImm x nn, _, rfl, State.setV_getV_same .., setV_frame s x _⟩,
    ⟨encodedAs_addImm x nn, _, rfl, ?_, setV_frame s x _⟩,
    ⟨encodedAs_family8 0 rfl rfl, _, rfl, State.setV_getV_same .., setV_frame s x _⟩⟩
  rw [State.setV_getV_same, BitVec.toNat_add]

/-- Settles O31: the three are `logicOp` of OR, AND and XOR. -/
theorem logicalOperations : Obligations.LogicalOperations := fun _ _ _ _ _ ha hb =>
  ⟨⟨encodedAs_family8 1 rfl rfl, logicOp_spec rfl ha hb⟩,
    ⟨encodedAs_family8 2 rfl rfl, logicOp_spec rfl ha hb⟩,
    ⟨encodedAs_family8 3 rfl rfl, logicOp_spec rfl ha hb⟩⟩

/-- Settles O32: the result is the wrapping sum, the flag its carry. -/
theorem addRegistersWithCarry : Obligations.AddRegistersWithCarry := fun _ _ _ =>
  ⟨encodedAs_family8 4 rfl rfl, resultThenFlag_spec rfl (BitVec.toNat_add ..) decide_eq_true_iff⟩

/-- Settles O34: the result is the wrapping difference VY - VX, the flag the absence of a borrow. -/
theorem reverseSubtractionWithBorrow : Obligations.ReverseSubtractionWithBorrow := fun _ _ _ =>
  ⟨encodedAs_family8 7 rfl rfl, resultThenFlag_spec rfl (byte_sub_toNat ..) decide_eq_true_iff⟩

end Sys2Proof.Machine

namespace Sys2Proof.Machine

/-! ### The index register (43_index_memory.md R130) -/

theorem exec_ldI (nnn : Addr) (s : State) :
    exec (.ldI nnn) s = .next (s.setIndex (zeroExtend nnn)) := rfl

theorem encodedAs_ldI (nnn : Addr) : EncodedAs (0xA000 + nnn.toNat) (.ldI nnn) :=
  encodedAs_of_encode rfl (formatNNN_toNat 0xA nnn)

/-- Settles O38: I takes the zero-extended operand, and `setIndex` writes nothing but I. -/
theorem loadIndex : Obligations.LoadIndex := by
  intro nnn s
  refine ⟨encodedAs_ldI nnn, s.setIndex (zeroExtend nnn), exec_ldI nnn s, ?_, setIndex_frame s _⟩
  rw [State.setIndex_index, zeroExtend_toNat]

end Sys2Proof.Machine

namespace Sys2Proof.Machine

/-! ### Clearing the display (44_display.md R140) -/

theorem exec_cls (s : State) : exec .cls s = .next (s.setDisp Screen.blank) := rfl

theorem encodedAs_cls : EncodedAs 0x00E0 .cls := encodedAs_of_encode rfl rfl

/-- Settles O47: the display becomes `Screen.blank`, and `setDisp` writes nothing but pixels. -/
theorem clearBlanksTheDisplay : Obligations.ClearBlanksTheDisplay := by
  refine ⟨encodedAs_cls, fun s => ⟨s.setDisp Screen.blank, exec_cls s, fun x y => ?_, setDisp_frame s _⟩⟩
  rw [State.setDisp_pixel, Screen.pixel_blank]

end Sys2Proof.Machine

namespace Sys2Proof.Machine

/-! ### The key wait (45_keypad.md R152, R153) -/

theorem keyByte_toNat (k : Key) : (keyByte k).toNat = k.val :=
  Nat.mod_eq_of_lt (show k.val < 256 by omega)

/-- FX0A with no key latched looks for the lowest key down, whatever the quirk. -/
theorem exec_ldVxK_of_idle {x : Reg} {s : State} (hl : s.latch = none) :
    exec (.ldVxK x) s = .next (scanForKey x s) := by
  simp only [exec, execLdVxK, hl]

/-- FX0A with the release quirk and a key latched waits for that key alone. -/
theorem exec_ldVxK_of_latched {x : Reg} {s : State} {j : Key} (hq : s.quirks.release = true)
    (hl : s.latch = some j) : exec (.ldVxK x) s = .next (awaitRelease j s) := by
  simp only [exec, execLdVxK, hl, hq, if_true]

theorem scanForKey_of_all_up {x : Reg} {s : State} (h : ∀ k : Key, s.getKey k = .up) :
    scanForKey x s = s.rewind := by
  simp only [scanForKey, (lowestKeyDown_none s).mpr h]

theorem scanForKey_of_lowest {x : Reg} {s : State} {k : Key} (h : lowestKeyDown s = some k) :
    scanForKey x s =
      if s.quirks.release then ((s.setV x (keyByte k)).setLatch (some k)).rewind
      else s.setV x (keyByte k) := by
  simp only [scanForKey, h]

theorem awaitRelease_of_down {j : Key} {s : State} (h : s.getKey j = .down) :
    awaitRelease j s = s.rewind := by
  simp [awaitRelease, h]

theorem awaitRelease_of_up {j : Key} {s : State} (h : s.getKey j = .up) :
    awaitRelease j s = s.setLatch none := if_pos h

/-- Going back to the FX0A changes `pc` alone. -/
theorem rewind_frame (s : State) : UnchangedExcept (fun p => p = .pc) s s.rewind := setPc_frame s _

/-- Settles O53: one case per row of R153's table. Idle rows are `scanForKey`, whose frame is
`scanForKey_frame`; latched rows are `awaitRelease`, which is a rewind or an emptied latch. -/
theorem keyWaitStateMachine : Obligations.KeyWaitStateMachine := by
  intro x s
  refine ⟨fun hl hup => ?idleNoneDown, fun k hq hl hk hlow => ?idleDownWithoutQuirk,
    fun k hq hl hk hlow => ?idleDownWithQuirk, fun j hq hl hj => ?latchedDown,
    fun j hq hl hj => ?latchedUp⟩
  case idleNoneDown =>
    refine ⟨s.rewind, ?_, rfl, rewind_frame s⟩
    rw [exec_ldVxK_of_idle hl, scanForKey_of_all_up hup]
  case idleDownWithoutQuirk =>
    refine ⟨s.setV x (keyByte k), ?_, ?_, setV_frame s x _⟩
    · rw [exec_ldVxK_of_idle hl, scanForKey_of_lowest (lowestKeyDown_some hk hlow), hq]
      rfl
    · rw [State.setV_getV_same, keyByte_toNat]
  case idleDownWithQuirk =>
    have hscan : scanForKey x s = ((s.setV x (keyByte k)).setLatch (some k)).rewind := by
      rw [scanForKey_of_lowest (lowestKeyDown_some hk hlow), if_pos hq]
    refine ⟨scanForKey x s, exec_ldVxK_of_idle hl, ?_, ?_, ?_, scanForKey_frame x s⟩
    · rw [hscan, State.rewind_getV, State.setLatch_getV, State.setV_getV_same, keyByte_toNat]
    · rw [hscan, State.rewind_latch, State.setLatch_latch]
    · rw [hscan, State.rewind_pc, State.setLatch_pc, State.setV_pc]
  case latchedDown =>
    refine ⟨s.rewind, ?_, rfl, rewind_frame s⟩
    rw [exec_ldVxK_of_latched hq hl, awaitRelease_of_down hj]
  case latchedUp =>
    refine ⟨s.setLatch none, ?_, rfl, setLatch_frame s none⟩
    rw [exec_ldVxK_of_latched hq hl, awaitRelease_of_up hj]

end Sys2Proof.Machine

namespace Sys2Proof.Machine

/-! ### The timers (46_timers.md R160, R161, R163) -/

/-- The words of family F: the last byte selects the operation (30_encoding.md R74). -/
theorem encodedAs_familyF {i : Instr} {x : Reg} (nn : Byte) (h : i.wellFormed = true)
    (he : encode i = formatXNN 0xF x nn) : EncodedAs (0xF000 + nn.toNat + x.val * 256) i := by
  refine encodedAs_of_encode h ?_
  have hF : (0xF : BitVec 4).toNat = 15 := rfl
  rw [he, formatXNN_toNat, hF]
  omega

theorem encodedAs_ldVxDt (x : Reg) : EncodedAs (0xF007 + x.val * 256) (.ldVxDt x) :=
  encodedAs_familyF 0x07 rfl rfl

theorem encodedAs_ldDtVx (x : Reg) : EncodedAs (0xF015 + x.val * 256) (.ldDtVx x) :=
  encodedAs_familyF 0x15 rfl rfl

theorem exec_ldVxDt (x : Reg) (s : State) : exec (.ldVxDt x) s = .next (s.setV x s.dt) := rfl

theorem exec_ldDtVx (x : Reg) (s : State) : exec (.ldDtVx x) s = .next (s.setDt (s.getV x)) := rfl

theorem writes_dt_iff (q : Quirks) (i : Instr) : Writes q i .dt ↔ ∃ x, i = .ldDtVx x := by
  cases i <;> simp [Writes]

theorem writes_st_iff (q : Quirks) (i : Instr) : Writes q i .st ↔ ∃ x, i = .ldStVx x := by
  cases i <;> simp [Writes]

theorem exec_dt_eq_of_not_ldDtVx {i : Instr} {s t : State} (h : exec i s = .next t)
    (hi : ∀ x, i ≠ .ldDtVx x) : t.dt = s.dt :=
  exec_frame h .dt (fun hw => ((writes_dt_iff _ i).mp hw).elim hi)

theorem exec_st_eq_of_not_ldStVx {i : Instr} {s t : State} (h : exec i s = .next t)
    (hi : ∀ x, i ≠ .ldStVx x) : t.st = s.st :=
  exec_frame h .st (fun hw => ((writes_st_iff _ i).mp hw).elim hi)

/-- On numbers a tick is the truncated predecessor: no borrow below 0. -/
theorem tickDown_toNat (b : Byte) : (tickDown b).toNat = b.toNat - 1 := by
  rw [tickDown]
  split
  case isTrue h => rw [h]; rfl
  case isFalse h => bv_omega

@[simp] theorem tickTimers_dt (s : State) : (tickTimers s).dt = tickDown s.dt := rfl

@[simp] theorem tickTimers_st (s : State) : (tickTimers s).st = tickDown s.st := rfl

theorem tickTimers_frame (s : State) :
    UnchangedExcept (fun p => p = .dt ∨ p = .st) s (tickTimers s) :=
  (setDt_frame s _).trans (setSt_frame _ _)

theorem iterate_tickTimers_toNat (n : Nat) (s : State) :
    (tickTimers^[n] s).dt.toNat = s.dt.toNat - n ∧ (tickTimers^[n] s).st.toNat = s.st.toNat - n := by
  induction n with
  | zero => exact ⟨rfl, rfl⟩
  | succ n ih =>
    obtain ⟨hdt, hst⟩ := ih
    rw [Function.iterate_succ_apply', tickTimers_dt, tickTimers_st, tickDown_toNat, tickDown_toNat,
      hdt, hst]
    exact ⟨Nat.sub_sub .., Nat.sub_sub ..⟩

/-- Settles O56: one tick is `tickDown` of each timer, n ticks follow by induction, and
`exec_frame` names the one writer of each timer. -/
theorem ticksCountDownToZero : Obligations.TicksCountDownToZero :=
  ⟨fun s => ⟨tickDown_toNat s.dt, tickDown_toNat s.st, tickTimers_frame s⟩,
    iterate_tickTimers_toNat,
    fun _ _ _ h => ⟨exec_dt_eq_of_not_ldDtVx h, exec_st_eq_of_not_ldStVx h⟩⟩

/-- Settles O54: FX07 is one `setV`, FX15 one `setDt`, and no other instruction writes DT. -/
theorem delayTimerInstructions : Obligations.DelayTimerInstructions :=
  ⟨fun x s =>
    ⟨⟨encodedAs_ldVxDt x, _, exec_ldVxDt x s, State.setV_getV_same .., setV_frame s x _⟩,
      ⟨encodedAs_ldDtVx x, _, exec_ldDtVx x s, State.setDt_dt .., setDt_frame s _⟩⟩,
    fun _ _ _ => exec_dt_eq_of_not_ldDtVx⟩

end Sys2Proof.Machine

namespace Sys2Proof

/-! ### Words and fields (30_encoding.md R71 to R76) -/

theorem decodeBytes_bytesOfWord {op : Word} {i : Instr} (h : decode op = .ok i) :
    decodeBytes (bytesOfWord op) = .ok (i, []) := by
  simp only [bytesOfWord, decodeBytes, wordOfBytes_bytesOfWord, h]

/-- A word is its family and its NNN put together. -/
theorem formatNNN_fields {op : Word} {f : BitVec 4} (hf : family op = f.toNat) :
    formatNNN f (fieldNNN op) = op := by
  apply BitVec.eq_of_toNat_eq
  rw [formatNNN_toNat, fieldNNN_toNat, ← hf, family_eq]
  omega

/-- A word is its family, X and NN put together. -/
theorem formatXNN_fields {op : Word} {f : BitVec 4} {nn : Byte} (hf : family op = f.toNat)
    (hn : (fieldNN op).toNat = nn.toNat) : formatXNN f (fieldX op) nn = op := by
  apply BitVec.eq_of_toNat_eq
  rw [formatXNN_toNat, fieldX_val, ← hn, fieldNN_toNat, ← hf, family_eq]
  omega

/-- A word is its family, X, Y and N put together. -/
theorem formatXYN_fields {op : Word} {f : BitVec 4} {n : Fin 16} (hf : family op = f.toNat)
    (hn : (fieldN op).val = n.val) : formatXYN f (fieldX op) (fieldY op) n = op := by
  apply BitVec.eq_of_toNat_eq
  rw [formatXYN_toNat, fieldX_val, fieldY_val, ← hn, fieldN_val, ← hf, family_eq]
  omega

/-! ### The decoder's answers -/

/-- The five classes of undefined words (30_encoding.md R76). -/
def InUndefinedClass (op : Word) : Prop :=
  (op.toNat ≤ 0x0FFF ∧ op.toNat ≠ 0x00E0 ∧ op.toNat ≠ 0x00EE) ∨
  ((op.toNat / 4096 = 0x5 ∨ op.toNat / 4096 = 0x9) ∧ op.toNat % 16 ≠ 0) ∨
  (op.toNat / 4096 = 0x8 ∧ 8 ≤ op.toNat % 16 ∧ op.toNat % 16 ≠ 0xE) ∨
  (op.toNat / 4096 = 0xE ∧ op.toNat % 256 ≠ 0x9E ∧ op.toNat % 256 ≠ 0xA1) ∨
  (op.toNat / 4096 = 0xF ∧
    op.toNat % 256 ∉ [0x07, 0x0A, 0x15, 0x18, 0x1E, 0x29, 0x33, 0x55, 0x65])

/-- What a decoder may answer on `op`: the well-formed instruction that `op` encodes, or `op` refused and
in one of the five classes. -/
def Decodes (op : Word) : Except DecodeError Instr → Prop
  | .ok i => i.wellFormed = true ∧ encode i = op
  | .error e => e = .undefinedWord op ∧ InUndefinedClass op

theorem decodeSystem_decodes {op : Word} (hf : family op = 0x0) : Decodes op (decodeSystem op) := by
  rw [family_eq] at hf
  rw [decodeSystem]
  split
  next h => exact ⟨rfl, BitVec.eq_of_toNat_eq h.symm⟩
  next h => exact ⟨rfl, BitVec.eq_of_toNat_eq h.symm⟩
  next h h' => exact ⟨rfl, .inl ⟨by omega, h, h'⟩⟩

theorem decodeCompare_decodes {op : Word} {i : Instr} (hf : family op = 0x5 ∨ family op = 0x9)
    (hi : (fieldN op).val = 0 → i.wellFormed = true ∧ encode i = op) :
    Decodes op (decodeCompare i op) := by
  rw [family_eq] at hf
  rw [decodeCompare]
  split
  next h => exact hi h
  next h => exact ⟨rfl, .inr (.inl ⟨hf, fieldN_val op ▸ h⟩)⟩

theorem decodeRegister_decodes {op : Word} (hf : family op = 0x8) :
    Decodes op (decodeRegister op) := by
  rw [decodeRegister]
  split
  case h_10 =>
    simp only [imp_false, fieldN_val] at *
    rw [family_eq] at hf
    exact ⟨rfl, .inr (.inr (.inl ⟨hf, by omega, by omega⟩))⟩
  all_goals next h => exact ⟨rfl, formatXYN_fields hf h⟩

theorem decodeKey_decodes {op : Word} (hf : family op = 0xE) : Decodes op (decodeKey op) := by
  rw [decodeKey]
  split
  case h_3 h h' =>
    rw [fieldNN_toNat] at h h'
    exact ⟨rfl, .inr (.inr (.inr (.inl ⟨family_eq op ▸ hf, h, h'⟩)))⟩
  all_goals next h => exact ⟨rfl, formatXNN_fields hf h⟩

theorem decodeMisc_decodes {op : Word} (hf : family op = 0xF) : Decodes op (decodeMisc op) := by
  rw [decodeMisc]
  split
  case h_10 =>
    refine ⟨rfl, .inr (.inr (.inr (.inr ⟨family_eq op ▸ hf, ?_⟩)))⟩
    simp_all [← fieldNN_toNat]
  all_goals next h => exact ⟨rfl, formatXNN_fields hf h⟩

/-- BNNN's register is the high nibble of its address (30_encoding.md R79). -/
theorem jpV0_fields_wellFormed (op : Word) :
    (Instr.jpV0 (fieldNNN op) (fieldX op)).wellFormed = true := by
  rw [Instr.wellFormed, highNibbleIs, beq_iff_eq, fieldNNN_toNat, fieldX_val]
  omega

/-- The decoder's answer on every word, family by family (30_encoding.md R75). -/
theorem decode_decodes (op : Word) : Decodes op (decode op) := by
  rw [decode]
  split
  case h_1 h => exact decodeSystem_decodes h
  case h_6 h => exact decodeCompare_decodes (.inl h) (fun hn => ⟨rfl, formatXYN_fields h hn⟩)
  case h_9 h => exact decodeRegister_decodes h
  case h_10 h => exact decodeCompare_decodes (.inr h) (fun hn => ⟨rfl, formatXYN_fields h hn⟩)
  case h_12 h => exact ⟨jpV0_fields_wellFormed op, formatNNN_fields h⟩
  case h_14 h => exact ⟨rfl, formatXYN_fields h rfl⟩
  case h_15 h => exact decodeKey_decodes h
  case h_16 =>
    have : family op < 16 := (op.extractLsb 15 12).isLt
    simp only [imp_false] at *
    exact decodeMisc_decodes (by omega)
  case h_2 h | h_3 h | h_11 h => exact ⟨rfl, formatNNN_fields h⟩
  case h_4 h | h_5 h | h_7 h | h_8 h | h_13 h => exact ⟨rfl, formatXNN_fields h rfl⟩

theorem encode_of_decode {op : Word} {i : Instr} (h : decode op = .ok i) :
    i.wellFormed = true ∧ encode i = op := by
  have hd := decode_decodes op
  rwa [h] at hd

theorem undefined_of_decode_error {op : Word} {e : DecodeError} (h : decode op = .error e) :
    e = .undefinedWord op ∧ InUndefinedClass op := by
  have hd := decode_decodes op
  rwa [h] at hd

/-! ### The words of the opcode map -/

/-- No instruction's word is in one of the five classes. -/
theorem encode_defined (i : Instr) : ¬ InUndefinedClass (encode i) := by
  cases i
  case cls | ret => simp [InUndefinedClass, encode]
  case jp nnn | call nnn | ldI nnn | jpV0 nnn x =>
    have := nnn.isLt
    simp only [InUndefinedClass, encode, formatNNN_toNat, BitVec.reduceToNat]
    omega
  case seImm x nn | sneImm x nn | ldImm x nn | addImm x nn | rnd x nn =>
    have := nn.isLt
    simp only [InUndefinedClass, encode, formatXNN_toNat, BitVec.reduceToNat]
    omega
  case skp | sknp | ldVxDt | ldDtVx | ldStVx | ldVxK | addI | ldF | ldB | ldMemVx | ldVxMem =>
    simp only [InUndefinedClass, encode, formatXNN_toNat, BitVec.reduceToNat, List.mem_cons,
      List.not_mem_nil, or_false]
    omega
  all_goals
    simp only [InUndefinedClass, encode, formatXYN_toNat, BitVec.reduceToNat]
    omega

/-! ### The rows of the opcode map (30_encoding.md R73, R74) -/

/-- No word selects two rows: where both masks look, their values differ. -/
theorem opcodeTable_exclusive : ∀ r ∈ opcodeTable, ∀ r' ∈ opcodeTable,
    r.value &&& r'.mask = r'.value &&& r.mask → r = r' := by
  decide

theorem opcodeTable_nodup : opcodeTable.Nodup := by
  decide

theorem selectedBy_iff {r : OpcodeRow} {op : Word} : r.selectedBy op = true ↔ op &&& r.mask = r.value :=
  beq_iff_eq

theorem row_eq_of_selectedBy {r r' : OpcodeRow} {op : Word} (hr : r ∈ opcodeTable)
    (hr' : r' ∈ opcodeTable) (h : r.selectedBy op = true) (h' : r'.selectedBy op = true) : r = r' := by
  rw [selectedBy_iff] at h h'
  refine opcodeTable_exclusive r hr r' hr' ?_
  rw [← h, ← h', BitVec.and_assoc, BitVec.and_assoc, BitVec.and_comm r.mask]

/-- A word that selects a row selects no other. -/
theorem selected_rows_eq {r : OpcodeRow} {op : Word} (hr : r ∈ opcodeTable)
    (h : r.selectedBy op = true) : opcodeTable.filter (·.selectedBy op) = [r] := by
  have hiff : ∀ r' ∈ opcodeTable, r'.selectedBy op = decide (r' = r) := fun r' hr' => by
    rw [Bool.eq_iff_iff, decide_eq_true_iff]
    exact ⟨fun h' => row_eq_of_selectedBy hr' hr h' h, fun e => e ▸ h⟩
  rw [List.filter_congr hiff, List.filter_eq, List.count_eq_one_of_mem opcodeTable_nodup hr]
  rfl

open Laws.OpcodeRowMatches in
/-- Every instruction's word selects the row of its mnemonic. -/
theorem encode_selects_row : ∀ i : Instr, Statement i
  | .cls => cls | .ret => ret | .jp nnn => jp nnn | .call nnn => call nnn
  | .seImm x nn => seImm x nn | .sneImm x nn => sneImm x nn
  | .seReg x y => seReg x y | .sneReg x y => sneReg x y
  | .ldImm x nn => ldImm x nn | .addImm x nn => addImm x nn | .ldReg x y => ldReg x y
  | .orReg x y => orReg x y | .andReg x y => andReg x y | .xorReg x y => xorReg x y
  | .addReg x y => addReg x y | .subReg x y => subReg x y | .shr x y => shr x y
  | .subn x y => subn x y | .shl x y => shl x y
  | .ldI nnn => ldI nnn | .jpV0 nnn x => jpV0 nnn x | .rnd x nn => rnd x nn
  | .drw x y n => drw x y n | .skp x => skp x | .sknp x => sknp x
  | .ldVxDt x => ldVxDt x | .ldDtVx x => ldDtVx x | .ldStVx x => ldStVx x | .ldVxK x => ldVxK x
  | .addI x => addI x | .ldF x => ldF x | .ldB x => ldB x
  | .ldMemVx x => ldMemVx x | .ldVxMem x => ldVxMem x

theorem selected_mnemonics_of_encode (i : Instr) :
    (opcodeTable.filter (·.selectedBy (encode i))).map OpcodeRow.mnemonic = [i.mnemonic] := by
  obtain ⟨r, hr, hname, hsel⟩ := encode_selects_row i
  rw [selected_rows_eq hr hsel, List.map_singleton, hname]

/-! #### The masks in arithmetic -/

theorem masked_family (op : Word) : (op &&& 0xF000).toNat = op.toNat / 4096 * 4096 := by
  calc (op &&& 0xF000).toNat
      = (formatNNN (op.extractLsb 15 12) (fieldNNN op) &&& 0xF000).toNat := by
        rw [formatNNN_fields rfl]
    _ = family op * 4096 := by rw [formatNNN_masked, formatNNN_toNat]; simp [family]
    _ = op.toNat / 4096 * 4096 := by rw [family_eq]

theorem masked_nibble (op : Word) :
    (op &&& 0xF00F).toNat = op.toNat / 4096 * 4096 + op.toNat % 16 := by
  calc (op &&& 0xF00F).toNat
      = (formatXYN (op.extractLsb 15 12) (fieldX op) (fieldY op) (fieldN op) &&& 0xF00F).toNat := by
        rw [formatXYN_fields rfl rfl]
    _ = family op * 4096 + (fieldN op).val := by
        rw [formatXYN_masked_nibble, formatXYN_toNat]
        simp [family]
    _ = op.toNat / 4096 * 4096 + op.toNat % 16 := by rw [family_eq, fieldN_val]

theorem masked_byte (op : Word) :
    (op &&& 0xF0FF).toNat = op.toNat / 4096 * 4096 + op.toNat % 256 := by
  calc (op &&& 0xF0FF).toNat
      = (formatXNN (op.extractLsb 15 12) (fieldX op) (fieldNN op) &&& 0xF0FF).toNat := by
        rw [formatXNN_fields rfl rfl]
    _ = family op * 4096 + (fieldNN op).toNat := by
        rw [formatXNN_masked_byte, formatXNN_toNat]
        simp [family]
    _ = op.toNat / 4096 * 4096 + op.toNat % 256 := by rw [family_eq, fieldNN_toNat]

theorem masked_whole (op : Word) : op &&& 0xFFFF = op := BitVec.and_allOnes

/-- A word of the five classes selects no row. -/
theorem selected_rows_of_undefined {op : Word} (h : InUndefinedClass op) :
    opcodeTable.filter (·.selectedBy op) = [] := by
  rw [List.filter_eq_nil_iff]
  simp only [InUndefinedClass, List.mem_cons, List.not_mem_nil, or_false] at h
  simp only [opcodeTable, opcodeRowsControl, opcodeRowsRegister, opcodeRowsIndex, opcodeRowsMisc,
    List.forall_mem_append, List.forall_mem_cons, List.not_mem_nil, IsEmpty.forall_iff,
    implies_true, and_true, selectedBy_iff, ← BitVec.toNat_inj, masked_family, masked_nibble,
    masked_byte, masked_whole, BitVec.reduceToNat]
  omega

/-- Settles O1: fifteen fixed words, run through the decoder. -/
theorem wordsFromTheOpcodeMapDecode : Obligations.WordsFromTheOpcodeMapDecode :=
  ⟨rfl, rfl, rfl, rfl, rfl, rfl, rfl, rfl, rfl, rfl, rfl, rfl, rfl, rfl, rfl⟩

/-- Settles O2: the word by `decode_encode`, and the bytes are those of the word. -/
theorem decodeOfEncodeIsTheInstruction : Obligations.DecodeOfEncodeIsTheInstruction :=
  fun _ h => ⟨decode_encode h, decodeBytes_bytesOfWord (decode_encode h)⟩

/-- Settles O3: `decode_decodes` walks the decoder's families and puts each word's fields together
again. -/
theorem encodeOfDecodeIsTheWord : Obligations.EncodeOfDecodeIsTheWord :=
  fun _ _ => encode_of_decode

/-- Settles O4: a word that decodes is the word of its instruction, which selects that row alone; one
that does not is in the five classes, which select none. -/
theorem decoderAgreesWithTheOpcodeMap : Obligations.DecoderAgreesWithTheOpcodeMap := by
  intro op
  cases h : decode op with
  | ok i =>
    obtain ⟨-, rfl⟩ := encode_of_decode h
    exact .inl ⟨i, rfl, selected_mnemonics_of_encode i⟩
  | error e =>
    obtain ⟨rfl, hu⟩ := undefined_of_decode_error h
    exact .inr ⟨rfl, selected_rows_of_undefined hu⟩

/-- Settles O5: a refused word is in the five classes (`decode_decodes`), and no instruction's word is. -/
theorem undefinedWordsAreExactlyTheFiveClasses : Obligations.UndefinedWordsAreExactlyTheFiveClasses := by
  intro op
  change _ ↔ InUndefinedClass op
  cases h : decode op with
  | ok i =>
    obtain ⟨-, rfl⟩ := encode_of_decode h
    exact ⟨nofun, fun hu => absurd hu (encode_defined i)⟩
  | error e =>
    obtain ⟨rfl, hu⟩ := undefined_of_decode_error h
    exact ⟨fun _ => hu, fun _ => rfl⟩

end Sys2Proof

namespace Sys2Proof.Machine

/-! ### Handlers that can fault, case by case (60_exceptions.md R172 to R176) -/

section
variable {s : State} (nnn : Addr) (x y : Reg) {n : Fin 16}

theorem exec_ret_empty (h : s.sp.val = 0) : exec .ret s = .fault (.stackUnderflow s) := by
  rw [exec, execRet, popReturn_empty s h, orRaise_error]

theorem exec_ret_entry (h : s.sp.val ≠ 0) :
    exec .ret s = .next ((s.setPc s.stack[s.sp.val - 1]).setSp ⟨s.sp.val - 1, by omega⟩) := by
  rw [exec, execRet, popReturn_entry s h, orRaise_ok]

theorem exec_call_full (h : s.sp.val = 16) : exec (.call nnn) s = .fault (.stackOverflow s) := by
  rw [exec, execCall, pushReturn_full s h, orRaise_error]

theorem exec_call_room (h : s.sp.val < 16) :
    exec (.call nnn) s = .next (((s.setStackEntry ⟨s.sp.val, h⟩ s.pc).setSp
      ⟨s.sp.val + 1, by omega⟩).setPc (zeroExtend nnn)) := by
  rw [exec, execCall, pushReturn_room s h, orRaise_ok]

/-- A byte is a key number or above 15. -/
theorem byte_names_key_or_not (b : Byte) : (∃ k : Key, b.toNat = k.val) ∨ 15 < b.toNat := by
  by_cases h : 15 < b.toNat
  · exact .inr h
  · exact .inl ⟨⟨b.toNat, by omega⟩, rfl⟩

theorem keyOperand_of_names {k : Key} (h : (s.getV x).toNat = k.val) : keyOperand x s = .ok k := by
  rw [keyOperand_key x s (h ▸ k.isLt)]
  exact congrArg _ (Fin.ext h)

theorem exec_skp_key {k : Key} (h : (s.getV x).toNat = k.val) :
    exec (.skp x) s = .next (skipIf (s.getKey k == .down) s) := by
  rw [exec, execSkp, keyOperand_of_names x h, orRaise_ok]

theorem exec_sknp_key {k : Key} (h : (s.getV x).toNat = k.val) :
    exec (.sknp x) s = .next (skipIf (s.getKey k == .up) s) := by
  rw [exec, execSknp, keyOperand_of_names x h, orRaise_ok]

theorem exec_skp_no_key (h : 15 < (s.getV x).toNat) :
    exec (.skp x) s = .fault (.keyIndexOutOfRange (s.getV x) s) := by
  rw [exec, execSkp, keyOperand_none x s h, orRaise_error]

theorem exec_sknp_no_key (h : 15 < (s.getV x).toNat) :
    exec (.sknp x) s = .fault (.keyIndexOutOfRange (s.getV x) s) := by
  rw [exec, execSknp, keyOperand_none x s h, orRaise_error]

theorem exec_ldB_outside (h : 0xFFF < s.index.toNat + 2) :
    exec (.ldB x) s = .fault (.addressOutOfRange (max s.index.toNat 0x1000) s) := by
  rw [exec, execLdB, memWrite_outside s h, orRaise_error]

theorem exec_ldB_font (h : s.index.toNat < 80) :
    exec (.ldB x) s = .fault (.fontWrite s.index.toNat s) := by
  have hin : s.index.toNat + (decimalDigits (s.getV x)).length - 1 ≤ 0xFFF :=
    show s.index.toNat + 2 ≤ 0xFFF by omega
  rw [exec, execLdB, memWrite_font s hin h (List.cons_ne_nil _ _), orRaise_error]

theorem exec_ldB_inside (hlo : 80 ≤ s.index.toNat) (hhi : s.index.toNat + 2 ≤ 0xFFF) :
    exec (.ldB x) s =
      .next (s.setMem (s.mem.writeBytes s.index.toNat (decimalDigits (s.getV x)))) := by
  rw [exec, execLdB, memWrite_inside s hhi hlo, orRaise_ok]

theorem exec_ldMemVx_outside (h : 0xFFF < s.index.toNat + x.val) :
    exec (.ldMemVx x) s = .fault (.addressOutOfRange (max s.index.toNat 0x1000) s) := by
  rw [exec, execLdMemVx, memWrite_outside s (by rwa [length_registersUpTo]), orRaise_error]

theorem exec_ldMemVx_font (h : s.index.toNat < 80) :
    exec (.ldMemVx x) s = .fault (.fontWrite s.index.toNat s) := by
  have hlen := length_registersUpTo x s
  rw [exec, execLdMemVx, memWrite_font s (by omega) h (List.ne_nil_of_length_pos (by omega)),
    orRaise_error]

theorem exec_ldMemVx_inside (hlo : 80 ≤ s.index.toNat) (hhi : s.index.toNat + x.val ≤ 0xFFF) :
    exec (.ldMemVx x) s = .next (advanceIndexIfQuirk x
      (s.setMem (s.mem.writeBytes s.index.toNat (registersUpTo x s)))) := by
  rw [exec, execLdMemVx, memWrite_inside s (by rwa [length_registersUpTo]) hlo, orRaise_ok]

theorem exec_ldVxMem_outside (h : 0xFFF < s.index.toNat + x.val) :
    exec (.ldVxMem x) s = .fault (.addressOutOfRange (max s.index.toNat 0x1000) s) := by
  rw [exec, execLdVxMem, memRead_outside s h, orRaise_error]

theorem exec_ldVxMem_inside (h : s.index.toNat + x.val ≤ 0xFFF) :
    exec (.ldVxMem x) s = .next (advanceIndexIfQuirk x
      (loadRegisters (s.mem.readBytes s.index.toNat (x.val + 1)) s)) := by
  rw [exec, execLdVxMem, memRead_inside s h, orRaise_ok]

theorem readBytes_eq_spriteAt (s : State) (n : Nat) :
    s.mem.readBytes s.index.toNat n = spriteAt s n := by
  refine List.ext_getElem? fun k => ?_
  by_cases hk : k < n
  · rw [Memory.getElem?_readBytes _ _ _ _ hk]
    simp [spriteAt, hk, State.readByte]
  · simp [spriteAt, hk]

theorem exec_drw_outside (hn : n.val ≠ 0) (h : 0xFFF < s.index.toNat + n.val - 1) :
    exec (.drw x y n) s = .fault (.addressOutOfRange (max s.index.toNat 0x1000) s) := by
  rw [exec, execDrw, spriteBytes, if_neg hn, memRead_outside s h, orRaise_error]

theorem exec_drw_inside (h : n.val = 0 ∨ s.index.toNat + n.val - 1 ≤ 0xFFF) :
    exec (.drw x y n) s = .next (drawSprite ((s.getV x).toNat % 64) ((s.getV y).toNat % 32)
      (spriteAt s n.val) s) := by
  have hread : spriteBytes n.val s = .ok (spriteAt s n.val) := by
    rw [spriteBytes]
    split
    next hn => rw [hn]; rfl
    next hn => rw [memRead_inside s (h.resolve_left hn), readBytes_eq_spriteAt]
  rw [exec, execDrw, hread, orRaise_ok]

end

/-- Each instruction in each state either completes, and no fault is listed for it there, or raises the
one fault that is listed. -/
theorem exec_completes_or_faults (i : Instr) (s : State) :
    (Completes i s ∧ ∀ f, ¬ RaisedBy s f i) ∨
      ∃ f, exec i s = .fault f ∧ ∀ g, RaisedBy s g i ↔ g = f := by
  cases i
  case ret =>
    by_cases h : s.sp.val = 0
    · exact .inr ⟨_, exec_ret_empty h, fun g => and_iff_left h⟩
    · exact .inl ⟨⟨_, exec_ret_entry h⟩, fun _ hr => h hr.2⟩
  case call nnn =>
    by_cases h : s.sp.val = 16
    · exact .inr ⟨_, exec_call_full nnn h, fun g => and_iff_left h⟩
    · exact .inl ⟨⟨_, exec_call_room nnn (by omega)⟩, fun _ hr => h hr.2⟩
  case drw x y n =>
    by_cases h : n.val = 0 ∨ s.index.toNat + n.val - 1 ≤ 0xFFF
    · exact .inl ⟨⟨_, exec_drw_inside x y h⟩, fun _ ⟨hn, hr, _⟩ => by omega⟩
    · obtain ⟨hn, hr⟩ := not_or.mp h
      exact .inr ⟨_, exec_drw_outside x y hn (by omega), fun g =>
        ⟨fun ⟨_, _, e⟩ => e, fun e => ⟨hn, by omega, e⟩⟩⟩
  case ldB x =>
    by_cases hr : 0xFFF < s.index.toNat + 2
    · have hf : ¬ s.index.toNat < 80 := by omega
      exact .inr ⟨_, exec_ldB_outside x hr, fun g => by simp [RaisedBy, hr, hf]⟩
    by_cases hf : s.index.toNat < 80
    · exact .inr ⟨_, exec_ldB_font x hf, fun g => by simp [RaisedBy, hr, hf]⟩
    · exact .inl ⟨⟨_, exec_ldB_inside x (by omega) (by omega)⟩, fun g => by simp [RaisedBy, hr, hf]⟩
  case ldMemVx x =>
    by_cases hr : 0xFFF < s.index.toNat + x.val
    · have hf : ¬ s.index.toNat < 80 := by omega
      exact .inr ⟨_, exec_ldMemVx_outside x hr, fun g => by simp [RaisedBy, hr, hf]⟩
    by_cases hf : s.index.toNat < 80
    · exact .inr ⟨_, exec_ldMemVx_font x hf, fun g => by simp [RaisedBy, hr, hf]⟩
    · exact .inl ⟨⟨_, exec_ldMemVx_inside x (by omega) (by omega)⟩,
        fun g => by simp [RaisedBy, hr, hf]⟩
  case ldVxMem x =>
    by_cases hr : 0xFFF < s.index.toNat + x.val
    · exact .inr ⟨_, exec_ldVxMem_outside x hr, fun g => and_iff_right hr⟩
    · exact .inl ⟨⟨_, exec_ldVxMem_inside x (by omega)⟩, fun _ h => hr h.1⟩
  case skp x =>
    obtain ⟨k, hk⟩ | hk := byte_names_key_or_not (s.getV x)
    · exact .inl ⟨⟨_, exec_skp_key x hk⟩, fun _ h => by have := h.1; omega⟩
    · exact .inr ⟨_, exec_skp_no_key x hk, fun g => and_iff_right hk⟩
  case sknp x =>
    obtain ⟨k, hk⟩ | hk := byte_names_key_or_not (s.getV x)
    · exact .inl ⟨⟨_, exec_sknp_key x hk⟩, fun _ h => by have := h.1; omega⟩
    · exact .inr ⟨_, exec_sknp_no_key x hk, fun g => and_iff_right hk⟩
  case ldVxK x =>
    refine .inl ⟨?_, fun _ h => h⟩
    cases hl : s.latch with
    | none => exact ⟨_, exec_ldVxK_of_idle hl⟩
    | some j => exact ⟨_, by simp only [exec, execLdVxK, hl]; rfl⟩
  all_goals exact .inl ⟨⟨_, rfl⟩, fun _ h => h⟩

theorem exec_fault_iff (i : Instr) (s : State) (f : Fault) :
    exec i s = .fault f ↔ RaisedBy s f i := by
  obtain ⟨⟨t, ht⟩, hn⟩ | ⟨g, hg, hiff⟩ := exec_completes_or_faults i s
  · rw [ht]
    exact iff_of_false nofun (hn f)
  · rw [hg, hiff, Host.Outcome.fault.injEq, eq_comm]

theorem completes_of_not_raisedBy {i : Instr} {s : State} (h : ∀ g, ¬ RaisedBy s g i) :
    Completes i s := by
  obtain ⟨hc, -⟩ | ⟨f, -, hiff⟩ := exec_completes_or_faults i s
  · exact hc
  · exact absurd ((hiff f).mpr rfl) (h f)

/-- A handler that faults has changed nothing (60_exceptions.md R181). -/
theorem exec_fault_left {i : Instr} {s : State} {f : Fault} (h : exec i s = .fault f) :
    f.left = s := by
  rw [exec_fault_iff] at h
  cases i
  case ret | call => obtain ⟨rfl, -⟩ := h; rfl
  case drw => obtain ⟨-, -, rfl⟩ := h; rfl
  case ldB | ldMemVx => obtain ⟨-, rfl⟩ | ⟨-, rfl⟩ := h <;> rfl
  case ldVxMem | skp | sknp => obtain ⟨-, rfl⟩ := h; rfl
  all_goals exact h.elim

/-! ### What a next state says of the state before -/

theorem not_raisedBy_of_exec {i : Instr} {s t : State} (h : exec i s = .next t) (f : Fault) :
    ¬ RaisedBy s f i := by
  rw [← exec_fault_iff, h]
  exact nofun

section
variable {s t : State} {x y : Reg}

theorem sp_ne_zero_of_exec_ret (h : exec .ret s = .next t) : s.sp.val ≠ 0 :=
  fun hsp => not_raisedBy_of_exec h _ ⟨rfl, hsp⟩

theorem sp_lt_of_exec_call {nnn : Addr} (h : exec (.call nnn) s = .next t) : s.sp.val < 16 := by
  have hroom : s.sp.val ≠ 16 := fun hsp => not_raisedBy_of_exec h _ ⟨rfl, hsp⟩
  omega

theorem names_key_of_exec_skp (h : exec (.skp x) s = .next t) :
    ∃ k : Key, (s.getV x).toNat = k.val :=
  (byte_names_key_or_not _).resolve_right fun hk => not_raisedBy_of_exec h _ ⟨hk, rfl⟩

theorem names_key_of_exec_sknp (h : exec (.sknp x) s = .next t) :
    ∃ k : Key, (s.getV x).toNat = k.val :=
  (byte_names_key_or_not _).resolve_right fun hk => not_raisedBy_of_exec h _ ⟨hk, rfl⟩

theorem index_range_of_exec_ldB (h : exec (.ldB x) s = .next t) :
    80 ≤ s.index.toNat ∧ s.index.toNat + 2 ≤ 0xFFF :=
  ⟨Nat.not_lt.mp fun hfont => not_raisedBy_of_exec h _ (.inr ⟨hfont, rfl⟩),
    Nat.not_lt.mp fun hout => not_raisedBy_of_exec h _ (.inl ⟨hout, rfl⟩)⟩

theorem index_range_of_exec_ldMemVx (h : exec (.ldMemVx x) s = .next t) :
    80 ≤ s.index.toNat ∧ s.index.toNat + x.val ≤ 0xFFF :=
  ⟨Nat.not_lt.mp fun hfont => not_raisedBy_of_exec h _ (.inr ⟨hfont, rfl⟩),
    Nat.not_lt.mp fun hout => not_raisedBy_of_exec h _ (.inl ⟨hout, rfl⟩)⟩

theorem index_range_of_exec_ldVxMem (h : exec (.ldVxMem x) s = .next t) :
    s.index.toNat + x.val ≤ 0xFFF :=
  Nat.not_lt.mp fun hout => not_raisedBy_of_exec h _ ⟨hout, rfl⟩

theorem sprite_range_of_exec_drw {n : Fin 16} (h : exec (.drw x y n) s = .next t) :
    n.val = 0 ∨ s.index.toNat + n.val - 1 ≤ 0xFFF := by
  by_contra hout
  obtain ⟨hn, hr⟩ := not_or.mp hout
  exact not_raisedBy_of_exec h _ ⟨hn, by omega, rfl⟩

end

/-! ### The outcomes of a step (40_engine_cycle.md R90 to R95) -/

theorem advance_eq {s : State} :
    s.advance = { s with pc := BitVec.ofNat 16 (s.pc.toNat + 2) } := by
  have : s.pc + 2 = BitVec.ofNat 16 (s.pc.toNat + 2) := by
    apply BitVec.eq_of_toNat_eq
    simp
  rw [State.advance, this]
  rfl

/-- Everything a step can do: the fetch leaves memory, the word decodes to nothing, or its instruction
runs. -/
theorem step_cases (s : State) :
    (0xFFE < s.pc.toNat ∧ step s = .fault (.addressOutOfRange (max s.pc.toNat 0x1000) s)) ∨
    (s.pc.toNat ≤ 0xFFE ∧ (∀ i, decode (BitVec.ofNat 16 (wordAtPc s)) ≠ .ok i) ∧
      step s = .fault (.undefinedInstruction (BitVec.ofNat 16 (wordAtPc s)) s.advance)) ∨
    (s.pc.toNat ≤ 0xFFE ∧ ∃ i, decode (BitVec.ofNat 16 (wordAtPc s)) = .ok i ∧
      step s = exec i s.advance) := by
  by_cases hp : s.pc.toNat ≤ 0xFFE
  · have hstep := step_inside s hp
    rw [wordOfBytes_at_pc] at hstep
    cases hd : decode (BitVec.ofNat 16 (wordAtPc s)) with
    | ok i => exact .inr (.inr ⟨hp, i, rfl, by rw [hstep, runWord_ok hd]⟩)
    | error e => exact .inr (.inl ⟨hp, nofun, by rw [hstep, runWord_error hd]⟩)
  · exact .inl ⟨by omega, by rw [step, fetch_outside s (by omega), orRaise_error]⟩

/-- The state that a step leaves: none of its parts written, or `pc` advanced, or what its instruction
answers. -/
theorem stateAfterStep_cases (s : State) :
    stateAfterStep s = s ∨ s.pc.toNat ≤ 0xFFE ∧
      (stateAfterStep s = s.advance ∨ ∃ i, exec i s.advance = .next (stateAfterStep s)) := by
  obtain ⟨-, h⟩ | ⟨hp, -, h⟩ | ⟨hp, i, -, h⟩ := step_cases s
  · exact .inl (by rw [stateAfterStep, h]; rfl)
  · exact .inr ⟨hp, .inl (by rw [stateAfterStep, h]; rfl)⟩
  · refine .inr ⟨hp, ?_⟩
    obtain ⟨⟨t, ht⟩, -⟩ | ⟨f, hf, -⟩ := exec_completes_or_faults i s.advance
    · exact .inr ⟨i, by rw [stateAfterStep, h, ht]⟩
    · exact .inl (by rw [stateAfterStep, h, hf, ← exec_fault_left hf])

/-! ### Where a step leaves `pc` (40_engine_cycle.md R97) -/

theorem skipHolds_skp {x : Reg} {k : Key} {s : State} (h : (s.getV x).toNat = k.val) :
    SkipHolds (.skp x) s ↔ s.getKey k = .down :=
  ⟨fun ⟨_, hj, hd⟩ => Fin.ext (hj.trans h) ▸ hd, fun hd => ⟨k, h.symm, hd⟩⟩

theorem skipHolds_sknp {x : Reg} {k : Key} {s : State} (h : (s.getV x).toNat = k.val) :
    SkipHolds (.sknp x) s ↔ s.getKey k = .up :=
  ⟨fun ⟨_, hj, hd⟩ => Fin.ext (hj.trans h) ▸ hd, fun hd => ⟨k, h.symm, hd⟩⟩

theorem pc_of_skipIf {s t : State} {o : Outcome} {c : Bool} {P : Prop} (h : o = .next t)
    (ho : o = .next (skipIf c s)) (hc : c = true ↔ P) :
    (P → t.pc = s.pc + 2) ∧ (¬ P → t.pc = s.pc) := by
  cases ho.symm.trans h
  rw [skipIf_eq, State.setPc_pc, ← hc]
  exact ⟨fun h => if_pos h, fun h => if_neg h⟩

/-- But for the transfers, an instruction moves `pc` on by 2 exactly if it is a skip whose condition
holds. -/
theorem exec_pc {i : Instr} {s t : State} (hi : Transfers i = false) (h : exec i s = .next t) :
    (SkipHolds i s → t.pc = s.pc + 2) ∧ (¬ SkipHolds i s → t.pc = s.pc) := by
  cases i
  case seImm | seReg => exact pc_of_skipIf h rfl beq_iff_eq
  case sneImm | sneReg => exact pc_of_skipIf h rfl bne_iff_ne
  case skp x =>
    obtain ⟨k, hk⟩ := names_key_of_exec_skp h
    exact pc_of_skipIf h (exec_skp_key x hk) (beq_iff_eq.trans (skipHolds_skp hk).symm)
  case sknp x =>
    obtain ⟨k, hk⟩ := names_key_of_exec_sknp h
    exact pc_of_skipIf h (exec_sknp_key x hk) (beq_iff_eq.trans (skipHolds_sknp hk).symm)
  case ret | jp | call | jpV0 | ldVxK => cases hi
  all_goals exact ⟨False.elim, fun _ => exec_frame h .pc (by simp [Writes])⟩

theorem skipHolds_advance (i : Instr) (s : State) : SkipHolds i s.advance ↔ SkipHolds i s := by
  cases i <;> exact Iff.rfl

theorem advance_pc_toNat {s : State} (h : s.pc.toNat ≤ 0xFFE) :
    s.advance.pc.toNat = s.pc.toNat + 2 := by
  rw [State.advance_pc]
  bv_omega

/-! ### The instruction cycle: the obligations -/

/-- Settles O6: the word fetched is `wordAtPc`, and `advance` is the sum as the statement writes it. -/
theorem stepRunsTheDecodedInstruction : Obligations.StepRunsTheDecodedInstruction := by
  intro s i hp hd
  rw [step_inside s hp, wordOfBytes_at_pc, runWord_ok hd, advance_eq]

/-- Settles O7: of the three cases of `step_cases`, the second. -/
theorem undefinedWordFaultsAfterTheAdvance : Obligations.UndefinedWordFaultsAfterTheAdvance := by
  intro s hp hd
  obtain ⟨hp', -⟩ | ⟨-, -, h⟩ | ⟨-, i, hi, -⟩ := step_cases s
  · omega
  · rw [h, advance_eq]
  · exact absurd hi (hd i)

/-- Settles O8: the fetch faults before the advance. -/
theorem fetchOutsideMemoryFaults : Obligations.FetchOutsideMemoryFaults := by
  intro s hp
  rw [step, fetch_outside s hp, orRaise_error]

/-- Settles O9: the fetch carries the state itself, an undefined word the advanced one, and a handler
the one that it was given (`exec_fault_left`). -/
theorem faultedStepLeavesOnlyThePcAdvanced : Obligations.FaultedStepLeavesOnlyThePcAdvanced := by
  intro s f h
  rw [← advance_eq]
  obtain ⟨hp, hs⟩ | ⟨hp, -, hs⟩ | ⟨hp, i, -, hs⟩ := step_cases s
  · cases hs.symm.trans h
    exact .inl ⟨hp, rfl⟩
  · cases hs.symm.trans h
    exact .inr ⟨hp, rfl⟩
  · exact .inr ⟨hp, exec_fault_left (hs.symm.trans h)⟩

/-- Settles O10: the two ways to fault before the handler, and the two outcomes of a handler. -/
theorem stepSucceedsOrFaults : Obligations.StepSucceedsOrFaults := by
  intro s
  obtain ⟨-, h⟩ | ⟨-, -, h⟩ | ⟨-, i, -, h⟩ := step_cases s
  · exact .inr ⟨_, h⟩
  · exact .inr ⟨_, h⟩
  · rw [h]
    exact (exec_completes_or_faults i s.advance).imp And.left fun ⟨f, hf, _⟩ => ⟨f, hf⟩

/-- Settles O11: both halves read off `exec_completes_or_faults`. -/
theorem handlersRaiseOnlyTheListedFaults : Obligations.HandlersRaiseOnlyTheListedFaults :=
  fun i s f => ⟨exec_fault_iff i s f, completes_of_not_raisedBy⟩

/-- Settles O12: the cycle's advance, and `exec_pc` for what the handler adds. -/
theorem pcAdvancesByTwoOrSkipsByFour : Obligations.PcAdvancesByTwoOrSkipsByFour := by
  intro s t i hd hi h
  have hp : s.pc.toNat ≤ 0xFFE := (step_next_cases h).1
  rw [stepRunsTheDecodedInstruction s i hp hd, ← advance_eq] at h
  obtain ⟨hskip, hstay⟩ := exec_pc hi h
  rw [skipHolds_advance] at hskip hstay
  have hadv := advance_pc_toNat hp
  refine ⟨fun hc => ?_, fun hc => ?_⟩
  · rw [hskip hc]
    bv_omega
  · rw [hstay hc, hadv]

end Sys2Proof.Machine

namespace Sys2Proof.Machine

/-! ### Which instructions write which part (10_state.md R25 to R36) -/

theorem not_writes_key (q : Quirks) (i : Instr) (k : Key) : ¬ Writes q i (.key k) := by
  cases i <;> simp [Writes]

theorem not_writes_quirks (q : Quirks) (i : Instr) : ¬ Writes q i .quirks := by
  cases i <;> simp [Writes]

theorem writes_pixel_iff (q : Quirks) (i : Instr) (x : Fin 64) (y : Fin 32) :
    Writes q i (.pixel x y) ↔ i = .cls ∨ ∃ a b n, i = .drw a b n := by
  cases i <;> simp [Writes]

theorem writes_mem_iff (q : Quirks) (i : Instr) (a : Nat) :
    Writes q i (.mem a) ↔ (∃ x, i = .ldB x) ∨ ∃ x, i = .ldMemVx x := by
  cases i <;> simp [Writes]

theorem writes_stack_iff (q : Quirks) (i : Instr) (k : Fin 16) :
    Writes q i (.stack k) ↔ ∃ n, i = .call n := by
  cases i <;> simp [Writes]

theorem writes_sp_iff (q : Quirks) (i : Instr) :
    Writes q i .sp ↔ (∃ n, i = .call n) ∨ i = .ret := by
  cases i <;> simp [Writes]

theorem writes_latch_iff (q : Quirks) (i : Instr) : Writes q i .latch ↔ ∃ x, i = .ldVxK x := by
  cases i <;> simp [Writes]

theorem writes_draws_iff (q : Quirks) (i : Instr) : Writes q i .draws ↔ ∃ x nn, i = .rnd x nn := by
  cases i <;> simp [Writes]

theorem writes_v_iff (q : Quirks) (i : Instr) (r : Reg) : Writes q i (.v r) ↔ WritesV q r i := by
  cases i <;> simp [Writes, WritesV]

theorem exec_key {i : Instr} {s t : State} (h : exec i s = .next t) : t.key = s.key :=
  Vector.ext fun k hk => exec_frame h (.key ⟨k, hk⟩) (not_writes_key _ i _)

theorem exec_quirks {i : Instr} {s t : State} (h : exec i s = .next t) : t.quirks = s.quirks :=
  exec_frame h .quirks (not_writes_quirks _ i)

theorem exec_stack {i : Instr} {s t : State} (h : exec i s = .next t) (hi : ∀ n, i ≠ .call n)
    (k : Fin 16) : t.stack[k] = s.stack[k] :=
  exec_frame h (.stack k) fun hw => ((writes_stack_iff _ i k).mp hw).elim hi

theorem exec_latch {i : Instr} {s t : State} (h : exec i s = .next t) (hi : ∀ x, i ≠ .ldVxK x) :
    t.latch = s.latch :=
  exec_frame h .latch fun hw => ((writes_latch_iff _ i).mp hw).elim hi

/-- Settles O13: `exec_frame` lists neither part for any instruction, and a fault leaves `pc` alone
changed. -/
theorem stepsNeverWriteKeysOrQuirks : Obligations.StepsNeverWriteKeysOrQuirks := by
  intro s
  obtain h | ⟨-, h | ⟨i, h⟩⟩ := stateAfterStep_cases s
  · rw [h]; exact ⟨rfl, rfl⟩
  · rw [h]; exact ⟨rfl, rfl⟩
  · exact ⟨exec_key (s := s.advance) h, exec_quirks (s := s.advance) h⟩

/-- Settles O14: `exec_frame`, where `writes_pixel_iff` names the two writers. -/
theorem onlyClearAndDrawChangePixels : Obligations.OnlyClearAndDrawChangePixels := by
  intro i s t h hcls hdrw x y
  refine exec_frame h (.pixel x y) fun hw => ?_
  obtain rfl | ⟨a, b, n, rfl⟩ := (writes_pixel_iff _ i x y).mp hw
  · exact hcls rfl
  · exact hdrw a b n rfl

/-- Settles O15: `exec_frame`, where the writers of each part are those of its `iff`. -/
theorem memoryStackAndLatchHaveFewWriters : Obligations.MemoryStackAndLatchHaveFewWriters := by
  intro i s t h
  refine ⟨fun hB hMem a => exec_frame h (.mem a) fun hw => ?_, exec_stack h,
    fun hcall hret => exec_frame h .sp fun hw => ?_, exec_latch h⟩
  · exact ((writes_mem_iff _ i a).mp hw).elim (·.elim hB) (·.elim hMem)
  · exact ((writes_sp_iff _ i).mp hw).elim (·.elim hcall) hret

/-- Settles O16: `exec_frame`, whose registers are those of `WritesV`. -/
theorem registersAndFlagHaveOnlyTheirWriters : Obligations.RegistersAndFlagHaveOnlyTheirWriters :=
  fun i _ _ r h hr => exec_frame h (.v r) fun hw => hr ((writes_v_iff _ i r).mp hw)

/-! ### Memory as a whole: nothing but a checked store changes the list of cells -/

@[simp] theorem skipIf_mem (c : Bool) (s : State) : (skipIf c s).mem = s.mem := by
  cases c <;> rfl

@[simp] theorem resetFlagIfQuirk_mem (s : State) : (resetFlagIfQuirk s).mem = s.mem := by
  rw [resetFlagIfQuirk]
  split <;> rfl

@[simp] theorem loadShifted_mem (x y : Reg) (s : State) : (loadShifted x y s).mem = s.mem := by
  rw [loadShifted]
  split <;> rfl

@[simp] theorem raiseCollision_mem (hit : Bool) (s : State) : (raiseCollision hit s).mem = s.mem := by
  cases hit <;> rfl

@[simp] theorem advanceIndexIfQuirk_mem (x : Reg) (s : State) :
    (advanceIndexIfQuirk x s).mem = s.mem := by
  rw [advanceIndexIfQuirk_eq]
  rfl

@[simp] theorem scanForKey_mem (x : Reg) (s : State) : (scanForKey x s).mem = s.mem := by
  rw [scanForKey]
  split
  · rfl
  · split <;> rfl

@[simp] theorem awaitRelease_mem (j : Key) (s : State) : (awaitRelease j s).mem = s.mem := by
  rw [awaitRelease]
  split <;> rfl

/-- What an operation other than `reset` may do to memory: nothing, or one run of bytes stored inside
memory and above the font. -/
def StoresAboveFont (m m' : Memory) : Prop :=
  m' = m ∨ ∃ a bs, 80 ≤ a ∧ a + bs.length ≤ Config.memSize ∧ m' = m.writeBytes a bs

theorem StoresAboveFont.refl (m : Memory) : StoresAboveFont m m := .inl rfl

theorem StoresAboveFont.wf {m m' : Memory} (h : StoresAboveFont m m') (hm : m.wf = true) :
    m'.wf = true := by
  obtain rfl | ⟨a, bs, -, hhi, rfl⟩ := h
  · exact hm
  · exact Memory.wf_writeBytes hm hhi

theorem StoresAboveFont.read_font {m m' : Memory} (h : StoresAboveFont m m') (hm : m.wf = true)
    {c : Nat} (hc : c < 80) : m'.read c = m.read c := by
  obtain rfl | ⟨a, bs, hlo, hhi, rfl⟩ := h
  · rfl
  · rw [Memory.read_writeBytes hm hhi, if_neg (by omega)]

theorem exec_storesAboveFont {i : Instr} {s t : State} (h : exec i s = .next t) :
    StoresAboveFont s.mem t.mem := by
  cases i
  case ldB x =>
    obtain ⟨hlo, hhi⟩ := index_range_of_exec_ldB h
    cases (exec_ldB_inside x hlo hhi).symm.trans h
    exact .inr ⟨_, decimalDigits (s.getV x), hlo, show s.index.toNat + 3 ≤ 4096 by omega, rfl⟩
  case ldMemVx x =>
    obtain ⟨hlo, hhi⟩ := index_range_of_exec_ldMemVx h
    cases (exec_ldMemVx_inside x hlo hhi).symm.trans h
    have hlen := length_registersUpTo x s
    exact .inr ⟨_, _, hlo, show _ ≤ 4096 by omega, advanceIndexIfQuirk_mem x _⟩
  case ret =>
    have hsp := sp_ne_zero_of_exec_ret h
    cases (exec_ret_entry hsp).symm.trans h
    exact .inl rfl
  case call nnn =>
    have hsp := sp_lt_of_exec_call h
    cases (exec_call_room nnn hsp).symm.trans h
    exact .inl rfl
  case drw | skp | sknp | ldVxMem =>
    obtain ⟨u, -, hn⟩ := orRaise_next h
    cases hn
    left
    simp [drawSprite, loadRegisters]
  case ldVxK x =>
    left
    rw [exec, execLdVxK] at h
    split at h <;> cases h
    · split
      · exact awaitRelease_mem _ s
      · exact scanForKey_mem x s
    · exact scanForKey_mem x s
  all_goals
    cases h
    left
    simp [logicOp, resultThenFlag, flagThenShift, randomInto]

theorem stateAfterStep_storesAboveFont (s : State) :
    StoresAboveFont s.mem (stateAfterStep s).mem := by
  obtain h | ⟨-, h | ⟨i, h⟩⟩ := stateAfterStep_cases s
  · exact .inl (by rw [h])
  · exact .inl (by rw [h]; rfl)
  · exact exec_storesAboveFont (s := s.advance) h

/-! ### Loading (60_exceptions.md R186) -/

theorem load_accepted {bytes : List Byte} {s : State} (h : bytes.length ≤ 3584) :
    load bytes s = .accepted (s.setMem (s.mem.writeBytes 0x200 bytes)) :=
  if_neg (Nat.not_lt.mpr h)

theorem load_refused {bytes : List Byte} {s : State} (h : 3584 < bytes.length) :
    load bytes s = .refused s :=
  if_pos h

/-- A load, accepted or refused, changes nothing but memory from 0x200 up. -/
theorem load_state_cases (bytes : List Byte) (s : State) :
    ∃ m, (load bytes s).state = s.setMem m ∧ StoresAboveFont s.mem m := by
  by_cases h : bytes.length ≤ 3584
  · exact ⟨_, by rw [load_accepted h]; rfl,
      .inr ⟨0x200, bytes, by decide, show _ ≤ 4096 by omega, rfl⟩⟩
  · exact ⟨s.mem, by rw [load_refused (by omega)]; rfl, .refl s.mem⟩

/-! ### Construction and reset (70_reset_and_hazards.md R200, R201) -/

theorem nil_wf : Memory.wf [] = true := rfl

theorem font_fits (font : Vector Byte 80) : 0 + font.toList.length ≤ Config.memSize := by
  rw [Vector.length_toList]
  decide

theorem construct_mem_wf (q : Quirks) (font : Vector Byte 80) (n : Nat) :
    (State.construct q font n).mem.wf = true :=
  Memory.wf_writeBytes nil_wf (font_fits font)

theorem construct_readByte_font (q : Quirks) (font : Vector Byte 80) (n : Nat) (k : Fin 80) :
    (State.construct q font n).readByte k.val = font[k] := by
  have hk : 0 ≤ k.val ∧ k.val < 0 + font.toList.length := ⟨Nat.zero_le _, by simp⟩
  rw [State.construct, State.initial_readByte, fontBase,
    Memory.read_writeBytes nil_wf (font_fits font), if_pos hk]
  simp

theorem construct_readByte_above (q : Quirks) (font : Vector Byte 80) (n : Nat) {a : Nat}
    (ha : 80 ≤ a) : (State.construct q font n).readByte a = 0 := by
  have hout : ¬ (0 ≤ a ∧ a < 0 + font.toList.length) := by
    rw [Vector.length_toList]
    omega
  have hfont : inFontRegion a = false := by
    simp [inFontRegion, fontBase]
    omega
  rw [State.construct, State.initial_readByte, fontBase,
    Memory.read_writeBytes nil_wf (font_fits font), if_neg hout, Memory.read, Memory.unlisted, hfont]
  rfl

theorem initial_inv {m : Memory} (q : Quirks) (n : Nat) (hm : m.wf = true) :
    Inv (State.initial q m n) where
  memCanonical := hm
  pcInRange := show (BitVec.ofNat 16 progBase).toNat ≤ 0x10FE by decide
  stackInRange k := by simp [State.initial]
  latchIdle _ := rfl

theorem construct_inv (q : Quirks) (font : Vector Byte 80) (n : Nat) :
    Inv (State.construct q font n) :=
  initial_inv q n (construct_mem_wf q font n)

/-! ### What keeps the invariant (10_state.md R38) -/

/-- The offset jump's sum fits in 16 bits. -/
theorem offset_target_toNat (nnn : Addr) (b : Byte) :
    (zeroExtend nnn + b.setWidth 16).toNat = nnn.toNat + b.toNat := by
  have := nnn.isLt
  have := b.isLt
  rw [BitVec.toNat_add, zeroExtend_toNat, BitVec.toNat_setWidth_of_le (by decide)]
  omega

theorem scanForKey_pc (x : Reg) (s : State) :
    (scanForKey x s).pc = s.pc ∨ (scanForKey x s).pc = s.pc - 2 := by
  rw [scanForKey]
  split
  · exact .inr rfl
  · split
    · exact .inr rfl
    · exact .inl rfl

theorem awaitRelease_pc (j : Key) (s : State) :
    (awaitRelease j s).pc = s.pc ∨ (awaitRelease j s).pc = s.pc - 2 := by
  rw [awaitRelease]
  split
  · exact .inl rfl
  · exact .inr rfl

theorem exec_ldVxK_pc {x : Reg} {s t : State} (h : exec (.ldVxK x) s = .next t) :
    t.pc = s.pc ∨ t.pc = s.pc - 2 := by
  rw [exec, execLdVxK] at h
  split at h <;> cases h
  · split
    · exact awaitRelease_pc _ s
    · exact scanForKey_pc x s
  · exact scanForKey_pc x s

theorem scanForKey_latch {x : Reg} {s : State} (hq : s.quirks.release = false) :
    (scanForKey x s).latch = s.latch := by
  rw [scanForKey]
  split
  · rfl
  · rw [hq]
    rfl

/-- The greatest `pc` is that of BNNN: 0xFFF + 0xFF (10_state.md R32). -/
theorem exec_pc_le {i : Instr} {s t : State} (h : exec i s = .next t) (hlo : 2 ≤ s.pc.toNat)
    (hhi : s.pc.toNat ≤ 0x1000) (hstack : ∀ k : Fin 16, (s.stack[k]).toNat ≤ 0x1000) :
    t.pc.toNat ≤ 0x10FE := by
  by_cases hi : Transfers i = false
  · obtain ⟨hskip, hstay⟩ := exec_pc hi h
    by_cases hc : SkipHolds i s
    · rw [hskip hc]
      bv_omega
    · rw [hstay hc]
      omega
  · cases i
    case ret =>
      have hsp := sp_ne_zero_of_exec_ret h
      cases (exec_ret_entry hsp).symm.trans h
      exact Nat.le_trans (hstack ⟨s.sp.val - 1, by omega⟩) (by decide)
    case call nnn =>
      obtain ⟨u, -, hn⟩ := orRaise_next h
      cases hn
      have := nnn.isLt
      rw [State.setPc_pc, zeroExtend_toNat]
      omega
    case jp nnn =>
      cases h
      have := nnn.isLt
      rw [State.setPc_pc, zeroExtend_toNat]
      omega
    case jpV0 nnn x =>
      cases h
      have := nnn.isLt
      have := (s.getV (offsetRegister s.quirks x)).isLt
      rw [State.setPc_pc, offset_target_toNat]
      omega
    case ldVxK x =>
      obtain hpc | hpc := exec_ldVxK_pc h
      · rw [hpc]
        omega
      · rw [hpc]
        bv_omega
    all_goals exact absurd rfl hi

theorem exec_stack_le {i : Instr} {s t : State} (h : exec i s = .next t)
    (hpc : s.pc.toNat ≤ 0x1000) (hstack : ∀ k : Fin 16, (s.stack[k]).toNat ≤ 0x1000) (k : Fin 16) :
    (t.stack[k]).toNat ≤ 0x1000 := by
  by_cases hi : ∃ n, i = .call n
  · obtain ⟨nnn, rfl⟩ := hi
    have hsp := sp_lt_of_exec_call h
    cases (exec_call_room nnn hsp).symm.trans h
    simp only [State.setPc_stack, State.setSp_stack, State.setStackEntry_stack, Fin.getElem_fin,
      Vector.getElem_set]
    split
    · exact hpc
    · exact hstack k
  · rw [exec_stack h (not_exists.mp hi)]
    exact hstack k

theorem exec_latch_idle {i : Instr} {s t : State} (h : exec i s = .next t)
    (hq : s.quirks.release = false) (hl : s.latch = none) : t.latch = none := by
  by_cases hi : ∃ x, i = .ldVxK x
  · obtain ⟨x, rfl⟩ := hi
    cases (exec_ldVxK_of_idle hl).symm.trans h
    rw [scanForKey_latch hq, hl]
  · rw [exec_latch h (not_exists.mp hi), hl]

theorem Inv.advance {s : State} (hs : Inv s) (hp : s.pc.toNat ≤ 0xFFE) : Inv s.advance where
  memCanonical := hs.memCanonical
  pcInRange := by
    rw [advance_pc_toNat hp]
    omega
  stackInRange := hs.stackInRange
  latchIdle := hs.latchIdle

/-- The handler of a step keeps the invariant: the advanced `pc` is a return address. -/
theorem Inv.exec_advance {s t : State} {i : Instr} (hs : Inv s) (hp : s.pc.toNat ≤ 0xFFE)
    (h : exec i s.advance = .next t) : Inv t := by
  have hpc := advance_pc_toNat hp
  exact
    { memCanonical := (exec_storesAboveFont h).wf hs.memCanonical
      pcInRange := exec_pc_le h (by omega) (by omega) hs.stackInRange
      stackInRange := exec_stack_le h (by omega) hs.stackInRange
      latchIdle := fun hq => by
        rw [exec_quirks h] at hq
        exact exec_latch_idle h hq (hs.latchIdle hq) }

theorem Inv.stateAfterStep {s : State} (hs : Inv s) : Inv (stateAfterStep s) := by
  obtain h | ⟨hp, h | ⟨i, h⟩⟩ := stateAfterStep_cases s
  · rwa [h]
  · rw [h]
    exact hs.advance hp
  · exact hs.exec_advance hp h

theorem Inv.setMem {s : State} {m : Memory} (hs : Inv s) (hm : m.wf = true) : Inv (s.setMem m) :=
  ⟨hm, hs.pcInRange, hs.stackInRange, hs.latchIdle⟩

theorem Inv.apply {s : State} (hs : Inv s) (font : Vector Byte 80) (op : HostOp) :
    Inv (op.apply font s) := by
  cases op with
  | step => exact hs.stateAfterStep
  | tickTimers => exact ⟨hs.memCanonical, hs.pcInRange, hs.stackInRange, hs.latchIdle⟩
  | setKey k u => exact ⟨hs.memCanonical, hs.pcInRange, hs.stackInRange, hs.latchIdle⟩
  | load bytes =>
    obtain ⟨m, hload, hm⟩ := load_state_cases bytes s
    rw [HostOp.apply, hload]
    exact hs.setMem (hm.wf hs.memCanonical)
  | reset => exact construct_inv s.quirks font s.draws

/-! ### Every operation and every run of operations (60_exceptions.md R183) -/

theorem apply_storesAboveFont (font : Vector Byte 80) {op : HostOp} (hop : op ≠ .reset) (s : State) :
    StoresAboveFont s.mem (op.apply font s).mem := by
  cases op with
  | step => exact stateAfterStep_storesAboveFont s
  | tickTimers => exact .refl s.mem
  | setKey k u => exact .refl s.mem
  | load bytes =>
    obtain ⟨m, hload, hm⟩ := load_state_cases bytes s
    rw [HostOp.apply, hload]
    exact hm
  | reset => exact absurd rfl hop

theorem apply_quirks (font : Vector Byte 80) (op : HostOp) (s : State) :
    (op.apply font s).quirks = s.quirks := by
  cases op with
  | step => exact (stepsNeverWriteKeysOrQuirks s).2
  | tickTimers => rfl
  | setKey k u => rfl
  | load bytes =>
    obtain ⟨m, hload, -⟩ := load_state_cases bytes s
    rw [HostOp.apply, hload]
    rfl
  | reset => rfl

theorem apply_readByte_font {s : State} (hs : s.mem.wf = true) (font : Vector Byte 80)
    {op : HostOp} (hop : op ≠ .reset) {a : Nat} (ha : a < 80) :
    (op.apply font s).readByte a = s.readByte a :=
  (apply_storesAboveFont font hop s).read_font hs ha

/-- What every state of a run has: the invariant, the quirks of construction, and the font in place. -/
structure RunInv (q : Quirks) (font : Vector Byte 80) (s : State) : Prop where
  inv : Inv s
  quirks : s.quirks = q
  font : ∀ k : Fin 80, s.readByte k.val = font[k]

theorem construct_runInv (q : Quirks) (font : Vector Byte 80) (n : Nat) :
    RunInv q font (State.construct q font n) :=
  ⟨construct_inv q font n, rfl, construct_readByte_font q font n⟩

theorem RunInv.apply {q : Quirks} {font : Vector Byte 80} {s : State} (hs : RunInv q font s)
    (op : HostOp) : RunInv q font (op.apply font s) where
  inv := hs.inv.apply font op
  quirks := (apply_quirks font op s).trans hs.quirks
  font k := by
    by_cases hop : op = .reset
    · rw [hop]
      exact construct_readByte_font s.quirks font s.draws k
    · rw [apply_readByte_font hs.inv.memCanonical font hop k.isLt, hs.font]

theorem RunInv.applyAll {q : Quirks} {font : Vector Byte 80} {s : State} (hs : RunInv q font s)
    (ops : List HostOp) : RunInv q font (HostOp.applyAll font ops s) := by
  induction ops generalizing s with
  | nil => exact hs
  | cons op ops ih => exact ih (hs.apply op)

/-- Settles O17: `Inv.exec_advance`, one lemma for each field of the invariant. -/
theorem everyStepKeepsTheInvariant : Obligations.EveryStepKeepsTheInvariant := by
  intro s t hs h
  obtain ⟨hp, _, i, -, -, hexec⟩ := step_next_cases h
  exact hs.exec_advance hp hexec

/-- Settles O18: memory holds the font alone, `pc` is 0x200, and stack and latch are empty. -/
theorem constructedStatesMeetTheInvariant : Obligations.ConstructedStatesMeetTheInvariant :=
  ⟨initial_inv defaultQuirks 0 nil_wf, construct_inv⟩

/-- Settles O19: by cases on the operation (`Inv.apply`); a faulted step leaves the state or advances
`pc` (`stateAfterStep_cases`). -/
theorem everyHostOperationKeepsTheInvariant : Obligations.EveryHostOperationKeepsTheInvariant :=
  fun font op _ hs => hs.apply font op

/-- Settles O20: all that an operation other than `reset` stores lies above the font. -/
theorem fontRegionIsNeverWritten : Obligations.FontRegionIsNeverWritten :=
  fun font _ _ hs hop _ => apply_readByte_font hs font hop

/-- Settles O21: by induction on the operations, with `RunInv` as the invariant. -/
theorem everyRunKeepsFontQuirksAndInvariant : Obligations.EveryRunKeepsFontQuirksAndInvariant := by
  intro q font n ops
  obtain ⟨hinv, hquirks, hfont⟩ := (construct_runInv q font n).applyAll ops
  exact ⟨hinv, hquirks, hfont⟩

/-! ### The count of draws (60_exceptions.md R190) -/

theorem exec_rnd (x : Reg) (nn : Byte) (s : State) :
    exec (.rnd x nn) s = .next (s.setV x (Config.randomByte s.draws &&& nn)).nextDraw := rfl

theorem exec_draws_le {i : Instr} {s t : State} (h : exec i s = .next t) : s.draws ≤ t.draws := by
  by_cases hi : ∃ x nn, i = .rnd x nn
  · obtain ⟨x, nn, rfl⟩ := hi
    cases (exec_rnd x nn s).symm.trans h
    exact Nat.le_succ _
  · exact Nat.le_of_eq (exec_frame h .draws fun hw => hi ((writes_draws_iff _ i).mp hw)).symm

theorem apply_draws_le (font : Vector Byte 80) (op : HostOp) (s : State) :
    s.draws ≤ (op.apply font s).draws := by
  cases op with
  | step =>
    obtain h | ⟨-, h | ⟨i, h⟩⟩ := stateAfterStep_cases s
    · exact Nat.le_of_eq (by rw [HostOp.apply, h])
    · exact Nat.le_of_eq (by rw [HostOp.apply, h]; rfl)
    · exact exec_draws_le (s := s.advance) h
  | tickTimers => exact Nat.le_refl _
  | setKey k u => exact Nat.le_refl _
  | load bytes =>
    obtain ⟨m, hload, -⟩ := load_state_cases bytes s
    rw [HostOp.apply, hload]
    exact Nat.le_refl _
  | reset => exact Nat.le_refl _

theorem applyAll_draws_le (font : Vector Byte 80) (ops : List HostOp) (s : State) :
    s.draws ≤ (HostOp.applyAll font ops s).draws := by
  induction ops generalizing s with
  | nil => exact Nat.le_refl _
  | cons op ops ih => exact Nat.le_trans (apply_draws_le font op s) (ih _)

/-- Settles O37: no operation sets the count back, by induction on the operations, and CXNN adds 1. -/
theorem noRandomDrawIsUsedTwice : Obligations.NoRandomDrawIsUsedTwice := by
  refine ⟨applyAll_draws_le, fun font ops x nn s t h => ?_⟩
  have hdraws : t.draws = s.draws + 1 := by
    cases (exec_rnd x nn s).symm.trans h
    rfl
  have hrun := applyAll_draws_le font ops t
  omega

end Sys2Proof.Machine

namespace Sys2Proof.Machine

/-! ### Calls, returns and the offset jump (41_control_flow.md R100, R102, R107) -/

/-- Settles O23: the push writes slot SP, then SP, and the jump writes `pc`. -/
theorem callPushesTheReturnAddress : Obligations.CallPushesTheReturnAddress := by
  intro nnn k s hsp
  have hlt : s.sp.val < 16 := by omega
  obtain rfl : k = ⟨s.sp.val, hlt⟩ := Fin.ext hsp.symm
  refine ⟨_, exec_call_room nnn hlt, by simp, rfl, zeroExtend_toNat nnn, ?_⟩
  exact (((setStackEntry_frame s _ _).trans (setSp_frame _ _)).trans (setPc_frame _ _)).mono
    fun _ => or_assoc.mp

/-- Settles O24: the pop writes `pc` and SP, and no slot of the stack. -/
theorem returnPopsTheReturnAddress : Obligations.ReturnPopsTheReturnAddress := by
  intro k s hsp
  have hk : s.sp.val - 1 = k.val := by omega
  refine ⟨_, exec_ret_entry (by omega), ?_, hk, (setPc_frame s _).trans (setSp_frame _ _)⟩
  simp [hk]

/-- Settles O26: both check SP before they write anything. -/
theorem stackOverflowAndUnderflowFault : Obligations.StackOverflowAndUnderflowFault :=
  ⟨fun nnn _ => exec_call_full nnn, fun _ => exec_ret_empty⟩

/-- Settles O25: the return pops the slot that the call wrote. -/
theorem returnUndoesACall : Obligations.ReturnUndoesACall := by
  intro nnn s t h
  have hlt := sp_lt_of_exec_call h
  obtain ⟨t', ht', hslot, hsp, -, -⟩ := callPushesTheReturnAddress nnn ⟨s.sp.val, hlt⟩ s rfl
  cases ht'.symm.trans h
  obtain ⟨u, hu, hpc, hsp', -⟩ := returnPopsTheReturnAddress ⟨s.sp.val, hlt⟩ t hsp
  exact ⟨u, hu, hpc.trans hslot, Fin.ext hsp'⟩

theorem exec_jpV0 (nnn : Addr) (x : Reg) (s : State) :
    exec (.jpV0 nnn x) s =
      .next (s.setPc (zeroExtend nnn + (s.getV (offsetRegister s.quirks x)).setWidth 16)) := rfl

theorem encodedAs_jpV0 {nnn : Addr} {x : Reg} (h : x.val = nnn.toNat / 256) :
    EncodedAs (0xB000 + nnn.toNat) (.jpV0 nnn x) :=
  encodedAs_of_encode (by simp [Instr.wellFormed, highNibbleIs, h]) (formatNNN_toNat 0xB nnn)

/-- Settles O29: the sum of a 12-bit address and a byte fits in 16 bits. -/
theorem offsetJumpAddsARegister : Obligations.OffsetJumpAddsARegister := by
  intro nnn x s hx
  refine ⟨encodedAs_jpV0 hx, _, exec_jpV0 nnn x s, ?_, setPc_frame s _⟩
  rw [State.setPc_pc, offset_target_toNat, offsetRegister, apply_ite s.getV]

/-! ### Subtraction, shifts and the random byte (42_register_alu.md R117, R118, R120, R124) -/

/-- Settles O33: the result is the wrapping difference VX - VY, the flag the absence of a borrow. -/
theorem subtractionWithBorrow : Obligations.SubtractionWithBorrow := fun _ _ _ =>
  ⟨encodedAs_family8 5 rfl rfl, resultThenFlag_spec rfl (byte_sub_toNat ..) decide_eq_true_iff⟩

theorem loadShifted_getV (x y : Reg) (s : State) :
    (loadShifted x y s).getV x = if s.quirks.shifting then s.getV x else s.getV y := by
  rw [loadShifted]
  split
  · rfl
  · exact State.setV_getV_same ..

/-- What 8XY6 and 8XYE do to the byte `a` that they shift: unless VF is the destination, VX takes the
shifted byte and VF the flag; VF as destination takes the shifted flag (the spec's decision D10). -/
theorem flagThenShift_spec {o : Outcome} {flag shift : Byte → Byte} {x y : Reg} {s : State} {a : Byte}
    (ho : o = .next (flagThenShift flag shift x y s))
    (ha : a = if s.quirks.shifting then s.getV x else s.getV y) :
    ∃ t, o = .next t ∧ (x ≠ VF → t.getV x = shift a ∧ t.getV VF = flag a) ∧
      (x = VF → t.getV VF = shift (flag a)) ∧
      UnchangedExcept (fun p => p = .v x ∨ p = .v VF) s t := by
  rw [← loadShifted_getV] at ha
  refine ⟨_, ho, fun hx => ⟨?_, ?_⟩, fun hx => ?_, flagThenShift_frame flag shift x y s⟩
  · rw [flagThenShift, State.setV_getV_same, State.setV_getV_other _ _ _ _ hx, ha]
  · rw [flagThenShift, State.setV_getV_other _ _ _ _ hx.symm, State.setV_getV_same, ha]
  · subst hx
    rw [flagThenShift, State.setV_getV_same, State.setV_getV_same, ha]

theorem shiftRight_one_toNat (a : Byte) : (a >>> 1).toNat = a.toNat / 2 := by
  rw [BitVec.toNat_ushiftRight, Nat.shiftRight_eq_div_pow, Nat.pow_one]

theorem shiftLeft_one_toNat (a : Byte) : (a <<< 1).toNat = 2 * a.toNat % 256 := by
  rw [BitVec.toNat_shiftLeft, Nat.shiftLeft_eq, Nat.pow_one, Nat.mul_comm]

theorem lowBitFlag_toNat (a : Byte) : (lowBitFlag a).toNat = a.toNat % 2 :=
  Nat.and_one_is_mod a.toNat

theorem highBitFlag_toNat (a : Byte) : (highBitFlag a).toNat = a.toNat / 128 := by
  have := a.isLt
  have hmod : (highBitFlag a).toNat = (a >>> 7).toNat % 2 := lowBitFlag_toNat (a >>> 7)
  rw [hmod, BitVec.toNat_ushiftRight, Nat.shiftRight_eq_div_pow]
  omega

/-- Settles O35: both are `flagThenShift`, by the low bit and a right shift, and by the high bit and a
left shift. -/
theorem shiftsByOnePlace : Obligations.ShiftsByOnePlace := by
  rintro x y s b rfl
  refine ⟨⟨encodedAs_family8 6 rfl rfl, ?_⟩, ⟨encodedAs_family8 14 rfl rfl, ?_⟩⟩
  · obtain ⟨t, ht, hother, hsame, hframe⟩ := flagThenShift_spec (o := exec (.shr x y) s) rfl rfl
    refine ⟨t, ht, fun hx => ?_, fun hx => ?_, hframe⟩
    · obtain ⟨hvx, hvf⟩ := hother hx
      rw [hvx, hvf]
      exact ⟨shiftRight_one_toNat _, lowBitFlag_toNat _⟩
    · apply BitVec.eq_of_toNat_eq
      rw [hsame hx, shiftRight_one_toNat, lowBitFlag_toNat]
      show _ = 0
      omega
  · obtain ⟨t, ht, hother, hsame, hframe⟩ := flagThenShift_spec (o := exec (.shl x y) s) rfl rfl
    refine ⟨t, ht, fun hx => ?_, fun hx => ?_, hframe⟩
    · obtain ⟨hvx, hvf⟩ := hother hx
      rw [hvx, hvf]
      exact ⟨shiftLeft_one_toNat _, highBitFlag_toNat _⟩
    · have := (if s.quirks.shifting then s.getV x else s.getV y).isLt
      rw [hsame hx, shiftLeft_one_toNat, highBitFlag_toNat]
      omega

theorem encodedAs_rnd (x : Reg) (nn : Byte) :
    EncodedAs (0xC000 + x.val * 256 + nn.toNat) (.rnd x nn) :=
  encodedAs_of_encode rfl (formatXNN_toNat 0xC x nn)

/-- Settles O36: one `setV` of VX with the masked draw, and the count moved on. -/
theorem randomByteIsMasked : Obligations.RandomByteIsMasked := fun x nn s =>
  ⟨encodedAs_rnd x nn, _, exec_rnd x nn s, State.setV_getV_same .., rfl,
    (setV_frame s x _).trans (nextDraw_frame _)⟩

/-! ### Index register and memory (20_memory.md R57, R58; 43_index_memory.md R131 to R136) -/

theorem exec_addI (x : Reg) (s : State) :
    exec (.addI x) s = .next (s.setIndex (s.index + (s.getV x).setWidth 16)) := rfl

theorem exec_ldF (x : Reg) (s : State) :
    exec (.ldF x) s = .next (s.setIndex (glyphAddress (s.getV x))) := rfl

theorem glyphAddress_toNat (b : Byte) : (glyphAddress b).toNat = 5 * (b.toNat % 16) := by
  have hmask : (b &&& 0x0F).toNat = b.toNat % 16 := Nat.and_two_pow_sub_one_eq_mod b.toNat 4
  rw [glyphAddress, hmask, fontBase, BitVec.toNat_ofNat]
  omega

/-- Settles O39: each is one `setIndex`. -/
theorem addToIndexAndGlyphAddress : Obligations.AddToIndexAndGlyphAddress := by
  intro x s
  refine ⟨⟨_, exec_addI x s, ?_, setIndex_frame s _⟩,
    ⟨_, exec_ldF x s, glyphAddress_toNat _, setIndex_frame s _⟩⟩
  rw [State.setIndex_index, BitVec.toNat_add, BitVec.toNat_setWidth_of_le (by decide)]

/-- Byte `k` of a run stored inside memory. -/
theorem readByte_of_stored {s : State} {a k : Nat} {bs : List Byte} (hm : s.mem.wf = true)
    (ha : a + bs.length ≤ Config.memSize) (hk : k < bs.length) :
    (s.setMem (s.mem.writeBytes a bs)).readByte (a + k) = bs.getD k 0 := by
  rw [State.setMem_readByte, Memory.read_writeBytes hm ha, if_pos (by omega), Nat.add_sub_cancel_left]

/-- Settles O40: the three digits are stored as one run. -/
theorem storeDecimalDigits : Obligations.StoreDecimalDigits := by
  intro x s hm hlo hhi
  have hfit : s.index.toNat + (decimalDigits (s.getV x)).length ≤ Config.memSize :=
    show s.index.toNat + 3 ≤ 4096 by omega
  have hread (k : Nat) (hk : k < 3) := congrArg BitVec.toNat (readByte_of_stored hm hfit hk)
  have := (s.getV x).isLt
  refine ⟨_, exec_ldB_inside x hlo hhi, ?_, ?_, ?_, setMem_writeBytes_frame s hm hfit⟩
  · exact (hread 0 (by decide)).trans (Nat.mod_eq_of_lt (by omega))
  · exact (hread 1 (by decide)).trans (Nat.mod_eq_of_lt (by omega))
  · exact (hread 2 (by decide)).trans (Nat.mod_eq_of_lt (by omega))

theorem advanceIndexIfQuirk_index {x : Reg} {s : State} (h : s.quirks.memory = true) :
    (advanceIndexIfQuirk x s).index.toNat = (s.index.toNat + x.val + 1) % 65536 := by
  rw [advanceIndexIfQuirk, if_pos h, State.setIndex_index, BitVec.toNat_add, BitVec.toNat_ofNat]
  omega

@[simp] theorem advanceIndexIfQuirk_getV (x : Reg) (s : State) (r : Reg) :
    (advanceIndexIfQuirk x s).getV r = s.getV r := by
  rw [advanceIndexIfQuirk_eq, State.setIndex_getV]

/-- Settles O41: one run of bytes stored, then the quirk's advance of the index register. -/
theorem storeRegisters : Obligations.StoreRegisters := by
  intro x s hm hlo hhi
  have hlen := length_registersUpTo x s
  have hfit : s.index.toNat + (registersUpTo x s).length ≤ Config.memSize :=
    show _ ≤ 4096 by omega
  refine ⟨_, exec_ldMemVx_inside x hlo hhi, fun r hr => ?_, fun hq => ?_, ?_⟩
  · rw [State.readByte, advanceIndexIfQuirk_mem]
    exact (readByte_of_stored hm hfit (by omega)).trans (getD_registersUpTo x r s hr)
  · exact advanceIndexIfQuirk_index hq
  · refine ((setMem_writeBytes_frame s hm hfit).trans (advanceIndexIfQuirk_frame x _)).mono ?_
    exact fun _ => Or.imp_left fun ⟨k, hk, e⟩ => ⟨k, by omega, e⟩

@[simp] theorem loadRegisters_index (b : List Byte) (s : State) :
    (loadRegisters b s).index = s.index := rfl

/-- Settles O42: the registers take the bytes read, then the quirk's advance of the index register. -/
theorem loadRegistersFromMemory : Obligations.LoadRegisters := by
  intro x s hhi
  have hlen := Memory.length_readBytes s.mem s.index.toNat (x.val + 1)
  refine ⟨_, exec_ldVxMem_inside x hhi, fun r hr => ?_, fun hq => ?_, ?_⟩
  · rw [advanceIndexIfQuirk_getV, loadRegisters_getV,
      Memory.getElem?_readBytes _ _ _ _ (Nat.lt_succ_of_le hr)]
    rfl
  · rw [advanceIndexIfQuirk_index (s := loadRegisters _ s) hq, loadRegisters_index]
  · refine ((loadRegisters_frame s _).trans (advanceIndexIfQuirk_frame x _)).mono ?_
    exact fun _ => Or.imp_left fun ⟨r, hr, e⟩ => ⟨r, by omega, e⟩

/-- Settles O43: the range is checked before the font, and both before any byte is stored. -/
theorem storesAndLoadsFaultOutsideTheirRange : Obligations.StoresAndLoadsFaultOutsideTheirRange :=
  fun x _ => ⟨exec_ldB_outside x, exec_ldMemVx_outside x, exec_ldVxMem_outside x, exec_ldB_font x,
    exec_ldMemVx_font x⟩

/-- Settles O44: the three cases of `MemWrite` and the two of `MemRead`. -/
theorem memoryPrimitivesCheckTheWholeRange : Obligations.MemoryPrimitivesCheckTheWholeRange := by
  rintro s a _ v hn rfl
  refine ⟨fun hout => ⟨memRead_outside s hout, memWrite_outside s hout⟩, fun hin => ⟨?_, ?_, ?_⟩⟩
  · exact ⟨_, memRead_inside s hin, Memory.length_readBytes .., Memory.getElem?_readBytes _ _ _⟩
  · exact fun hfont => memWrite_font s hin hfont (List.ne_nil_of_length_pos hn)
  · intro hlo hm
    have hfit : a + v.length ≤ Config.memSize := show _ ≤ 4096 by omega
    refine ⟨_, memWrite_inside s hin hlo, Memory.wf_writeBytes hm hfit, fun k hk => ?_,
      setMem_writeBytes_frame s hm hfit⟩
    rw [readByte_of_stored hm hfit hk, List.getD_eq_getElem _ _ hk, List.getElem?_eq_getElem hk]

/-- The bytes that FX55 leaves are the registers. -/
theorem readByte_of_exec_ldMemVx {x : Reg} {s t : State} (hm : s.mem.wf = true)
    (h : exec (.ldMemVx x) s = .next t) (r : Reg) (hr : r.val ≤ x.val) :
    t.readByte (s.index.toNat + r.val) = s.getV r := by
  obtain ⟨hlo, hhi⟩ := index_range_of_exec_ldMemVx h
  obtain ⟨t', ht', hbytes, -⟩ := storeRegisters x s hm hlo hhi
  cases ht'.symm.trans h
  exact hbytes r hr

/-- Settles O45: FX65 reads at the old index the bytes that FX55 stored there. -/
theorem storeThenLoadRestoresRegisters : Obligations.StoreThenLoadRestoresRegisters := by
  intro x s t u hm h hmem hindex
  obtain ⟨-, hhi⟩ := index_range_of_exec_ldMemVx h
  obtain ⟨w, hw, hregs, -⟩ := loadRegistersFromMemory x u (by rwa [hindex])
  refine ⟨w, hw, fun r hr => ?_⟩
  rw [hregs r hr, State.readByte, hmem, hindex]
  exact readByte_of_exec_ldMemVx hm h r hr

/-- Settles O46: the two bytes at `pc` after FX55 are V0 and V1. -/
theorem storedWordIsFetchedByTheNextStep : Obligations.StoredWordIsFetchedByTheNextStep := by
  intro x s t i hm hx hpc h hd
  obtain ⟨-, hhi⟩ := index_range_of_exec_ldMemVx h
  have hpc' : t.pc = s.index := (exec_frame h .pc (by simp [Writes])).trans hpc
  have hword : wordAtPc t = (s.getV 0).toNat * 256 + (s.getV 1).toNat := by
    rw [wordAtPc, hpc', ← readByte_of_exec_ldMemVx hm h 0 (Nat.zero_le _),
      ← readByte_of_exec_ldMemVx hm h 1 hx]
    rfl
  exact stepRunsTheDecodedInstruction t i (by rw [hpc']; omega) (by rwa [hword])

/-! ### Keys (45_keypad.md R150, R151; 60_exceptions.md R185) -/

/-- Settles O51: both instructions are `skipIf`, on the key that VX names. -/
theorem skipsOnAKey : Obligations.SkipsOnAKey := fun x _ _ hk =>
  ⟨skip_spec (exec_skp_key x hk) beq_iff_eq, skip_spec (exec_sknp_key x hk) beq_iff_eq⟩

/-- Settles O52: `keyOperand` faults before the skip. -/
theorem keySkipsFaultAboveFifteen : Obligations.KeySkipsFaultAboveFifteen := fun x _ h =>
  ⟨exec_skp_no_key x h, exec_sknp_no_key x h⟩

/-- Settles O57: one `setKeyState`. -/
theorem setKeyWritesOneKey : Obligations.SetKeyWritesOneKey := by
  intro k u s
  refine ⟨?_, setKeyState_frame s k u⟩
  rw [setKey, State.setKeyState_getKey, if_pos rfl]

/-! ### Load and reset (60_exceptions.md R186; 70_reset_and_hazards.md R200, R203) -/

/-- Settles O58: the image is one run of bytes from 0x200 up. -/
theorem loadCopiesTheImageOrRefusesIt : Obligations.LoadCopiesTheImageOrRefusesIt := by
  intro bytes s hm
  refine ⟨fun hlen => ?_, load_refused⟩
  have hfit : 0x200 + bytes.length ≤ Config.memSize := show _ ≤ 4096 by omega
  refine ⟨_, load_accepted hlen, fun k hk => ?_, setMem_writeBytes_frame s hm hfit⟩
  rw [readByte_of_stored hm hfit hk, List.getD_eq_getElem _ _ hk, List.getElem?_eq_getElem hk]

/-- Settles O59: the state is constructed anew, with the quirks and the count of draws it had. -/
theorem hostResetRestoresTheResetValues : Obligations.HostResetRestoresTheResetValues := by
  rintro font s _ rfl
  exact ⟨construct_readByte_font s.quirks font s.draws,
    fun _ => construct_readByte_above s.quirks font s.draws,
    State.initial_getV _ _ _, rfl, rfl, rfl,
    fun k => by simp [hostReset, State.construct, State.initial],
    fun _ _ => State.initial_pixel _ _ _ _ _, rfl, rfl, State.initial_getKey _ _ _, rfl, rfl, rfl⟩

/-- Settles O60: the two bytes at 0x200 are 0, a word of the first undefined class. -/
theorem steppingWithoutAProgramFaults : Obligations.SteppingWithoutAProgramFaults := by
  intro q font n
  have hpc : (State.construct q font n).pc.toNat = 0x200 := rfl
  have hword : wordAtPc (State.construct q font n) = 0 := by
    rw [wordAtPc, hpc, construct_readByte_above q font n (by decide),
      construct_readByte_above q font n (by decide)]
    rfl
  rw [undefinedWordFaultsAfterTheAdvance _ (by rw [hpc]; decide) (by rw [hword]; exact nofun),
    hword, hpc]
  rfl

end Sys2Proof.Machine

namespace Sys2Proof.Machine

/-! ### Drawing (44_display.md R141 to R144) -/

@[simp] theorem length_spriteAt (s : State) (n : Nat) : (spriteAt s n).length = n := by
  simp [spriteAt]

section
variable (x0 y0 : Nat) (rows : List Byte) (s : State)

theorem drawSprite_pixel (p q : Nat) :
    (drawSprite x0 y0 rows s).pixel p q =
      (drawRows s.quirks.clipping x0 y0 rows ⟨s.disp, false⟩).disp.pixel p q := by
  rw [drawSprite, raiseCollision]
  split <;> rfl

theorem drawSprite_getV_VF :
    (drawSprite x0 y0 rows s).getV VF =
      flagByte (drawRows s.quirks.clipping x0 y0 rows ⟨s.disp, false⟩).hit := by
  rw [drawSprite, raiseCollision, flagByte]
  split
  · exact State.setV_getV_same ..
  · rw [State.setDisp_getV, State.setV_getV_same]

variable {rows} (hl : rows.length ≤ 32)
include hl

theorem drawSprite_drawnOver :
    DrawnOver s.quirks.clipping x0 y0 rows s (drawSprite x0 y0 rows s) := by
  obtain ⟨hin, hout, -⟩ := drawRows_toggles s.quirks.clipping x0 y0 rows ⟨s.disp, false⟩ hl
  intro p q
  rw [drawSprite_pixel]
  exact ⟨hin p q, hout p q⟩

/-- VF ends with whether a pixel under the sprite was set. -/
theorem drawSprite_collision [Decidable (∃ (p : Fin 64) (q : Fin 32),
      SpriteCovers s.quirks.clipping x0 y0 rows p q ∧ s.pixel p.val q.val = true)] :
    (drawSprite x0 y0 rows s).getV VF =
      if ∃ (p : Fin 64) (q : Fin 32),
        SpriteCovers s.quirks.clipping x0 y0 rows p q ∧ s.pixel p.val q.val = true
      then 1 else 0 := by
  have hhit := (drawRows_toggles s.quirks.clipping x0 y0 rows ⟨s.disp, false⟩ hl).hit
  rw [drawSprite_getV_VF]
  exact flagByte_eq (hhit.trans (or_iff_right Bool.false_ne_true))

end

/-- Settles O48: `drawRows_toggles` for the pixels and the collision, `drawSprite_frame` for the rest. -/
theorem drawTogglesExactlyTheSprite : Obligations.DrawTogglesExactlyTheSprite := by
  classical
  rintro x y n s _ _ hin rfl rfl
  have hl : (spriteAt s n.val).length ≤ 32 := by
    rw [length_spriteAt]
    omega
  refine ⟨_, exec_drw_inside x y hin, drawSprite_drawnOver _ _ s hl, fun hset => ?_, fun hclear => ?_,
    drawSprite_frame _ _ _ s⟩
  · rw [drawSprite_collision _ _ s hl, if_pos hset]
  · rw [drawSprite_collision _ _ s hl, if_neg]
    rintro ⟨p, q, hcov, hset⟩
    rw [hclear p q hcov] at hset
    cases hset

/-- Settles O49: the sprite is read before VF is zeroed. -/
theorem drawFaultsWhenTheSpriteLeavesMemory : Obligations.DrawFaultsWhenTheSpriteLeavesMemory :=
  fun x y _ _ => exec_drw_outside x y

/-- DXYN leaves what a second DXYN reads: the quirks, the index, the sprite, and VX and VY unless one of
them is VF. -/
theorem exec_drw_inputs {x y : Reg} {n : Fin 16} {s t : State} (h : exec (.drw x y n) s = .next t) :
    t.quirks = s.quirks ∧ t.index = s.index ∧ spriteAt t n.val = spriteAt s n.val ∧
      ∀ r, r ≠ VF → t.getV r = s.getV r := by
  have hindex : t.index = s.index := exec_frame h .index (by simp [Writes])
  refine ⟨exec_quirks h, hindex, ?_, fun r hr => exec_frame h (.v r) (by simp [Writes, hr])⟩
  refine List.map_congr_left fun k _ => ?_
  rw [hindex]
  exact exec_frame h (.mem _) (by simp [Writes])

/-- Settles O50: the second draw has the inputs of the first, so it toggles the same pixels again; from a
blank display it finds those set that the first toggled. -/
theorem drawingTwiceRestoresTheDisplay : Obligations.DrawingTwiceRestoresTheDisplay := by
  intro x y n s t hx hy h
  have hin := sprite_range_of_exec_drw h
  obtain ⟨t', ht', hdraw, -, hclear, -⟩ := drawTogglesExactlyTheSprite x y n s _ _ hin rfl rfl
  cases ht'.symm.trans h
  obtain ⟨hquirks, hindex, hsprite, hregs⟩ := exec_drw_inputs h
  obtain ⟨u, hu, hredraw, hset, -, -⟩ :=
    drawTogglesExactlyTheSprite x y n t _ _ (by rwa [hindex]) rfl rfl
  rw [hquirks, hsprite, hregs x hx, hregs y hy] at hredraw hset
  refine ⟨u, hu, fun p q => ?_, fun hblank => ⟨hclear fun p q _ => hblank p q, ?_⟩⟩
  · obtain ⟨hon, hoff⟩ := hdraw p q
    obtain ⟨hon', hoff'⟩ := hredraw p q
    by_cases hcov : SpriteCovers s.quirks.clipping ((s.getV x).toNat % 64) ((s.getV y).toNat % 32)
        (spriteAt s n.val) p q
    · rw [hon' hcov, hon hcov, Bool.not_not]
    · rw [hoff' hcov, hoff hcov]
  · rintro ⟨p, q, hcov⟩
    refine hset ⟨p, q, hcov, ?_⟩
    rw [(hdraw p q).1 hcov, hblank p q, Bool.not_false]

/-! ### The sound timer is written and never read (46_timers.md R162) -/

section
variable (s : State) (b : Byte)

theorem skipIf_setSt (c : Bool) : skipIf c (s.setSt b) = (skipIf c s).setSt b := by
  cases c <;> rfl

theorem resetFlagIfQuirk_setSt : resetFlagIfQuirk (s.setSt b) = (resetFlagIfQuirk s).setSt b := by
  rw [resetFlagIfQuirk, resetFlagIfQuirk, State.setSt_quirks]
  split <;> rfl

theorem logicOp_setSt (f : Byte → Byte → Byte) (x y : Reg) :
    logicOp f x y (s.setSt b) = (logicOp f x y s).setSt b := by
  rw [logicOp, resetFlagIfQuirk_setSt]
  rfl

theorem loadShifted_setSt (x y : Reg) :
    loadShifted x y (s.setSt b) = (loadShifted x y s).setSt b := by
  rw [loadShifted, loadShifted, State.setSt_quirks]
  split <;> rfl

theorem flagThenShift_setSt (flag shift : Byte → Byte) (x y : Reg) :
    flagThenShift flag shift x y (s.setSt b) = (flagThenShift flag shift x y s).setSt b := by
  rw [flagThenShift, loadShifted_setSt]
  rfl

theorem advanceIndexIfQuirk_setSt (x : Reg) :
    advanceIndexIfQuirk x (s.setSt b) = (advanceIndexIfQuirk x s).setSt b := by
  rw [advanceIndexIfQuirk, advanceIndexIfQuirk, State.setSt_quirks]
  split <;> rfl

theorem raiseCollision_setSt (hit : Bool) :
    raiseCollision hit (s.setSt b) = (raiseCollision hit s).setSt b := by
  cases hit <;> rfl

theorem drawSprite_setSt (x0 y0 : Nat) (rows : List Byte) :
    drawSprite x0 y0 rows (s.setSt b) = (drawSprite x0 y0 rows s).setSt b :=
  raiseCollision_setSt ((s.setV VF 0).setDisp _) b _

theorem scanForKey_setSt (x : Reg) : scanForKey x (s.setSt b) = (scanForKey x s).setSt b := by
  have hkey : lowestKeyDown (s.setSt b) = lowestKeyDown s := rfl
  rw [scanForKey, scanForKey, hkey, State.setSt_quirks]
  split
  · rfl
  · split <;> rfl

theorem awaitRelease_setSt (j : Key) : awaitRelease j (s.setSt b) = (awaitRelease j s).setSt b := by
  rw [awaitRelease, awaitRelease, State.setSt_getKey]
  split <;> rfl

end

/-- Any instruction but FX18 does the same for every value of ST, and leaves that value. -/
theorem exec_setSt {i : Instr} {s t : State} (b : Byte) (h : exec i s = .next t)
    (hi : ∀ x, i ≠ .ldStVx x) : exec i (s.setSt b) = .next (t.setSt b) := by
  cases i
  case ldStVx x => exact absurd rfl (hi x)
  case ret =>
    have hsp := sp_ne_zero_of_exec_ret h
    cases (exec_ret_entry hsp).symm.trans h
    exact exec_ret_entry (s := s.setSt b) hsp
  case call nnn =>
    have hsp := sp_lt_of_exec_call h
    cases (exec_call_room nnn hsp).symm.trans h
    exact exec_call_room (s := s.setSt b) nnn hsp
  case skp x =>
    obtain ⟨k, hk⟩ := names_key_of_exec_skp h
    cases (exec_skp_key x hk).symm.trans h
    rw [← skipIf_setSt]
    exact exec_skp_key (s := s.setSt b) x hk
  case sknp x =>
    obtain ⟨k, hk⟩ := names_key_of_exec_sknp h
    cases (exec_sknp_key x hk).symm.trans h
    rw [← skipIf_setSt]
    exact exec_sknp_key (s := s.setSt b) x hk
  case drw x y n =>
    have hin := sprite_range_of_exec_drw h
    cases (exec_drw_inside x y hin).symm.trans h
    rw [← drawSprite_setSt]
    exact exec_drw_inside (s := s.setSt b) x y hin
  case ldB x =>
    obtain ⟨hlo, hhi⟩ := index_range_of_exec_ldB h
    cases (exec_ldB_inside x hlo hhi).symm.trans h
    exact exec_ldB_inside (s := s.setSt b) x hlo hhi
  case ldMemVx x =>
    obtain ⟨hlo, hhi⟩ := index_range_of_exec_ldMemVx h
    cases (exec_ldMemVx_inside x hlo hhi).symm.trans h
    rw [← advanceIndexIfQuirk_setSt]
    exact exec_ldMemVx_inside (s := s.setSt b) x hlo hhi
  case ldVxMem x =>
    have hhi := index_range_of_exec_ldVxMem h
    cases (exec_ldVxMem_inside x hhi).symm.trans h
    rw [← advanceIndexIfQuirk_setSt]
    exact exec_ldVxMem_inside (s := s.setSt b) x hhi
  case ldVxK x =>
    rw [exec, execLdVxK] at h ⊢
    rw [State.setSt_latch, State.setSt_quirks]
    split at h <;> cases h
    next j hl => split <;> simp [awaitRelease_setSt, scanForKey_setSt, *]
    next hl => simp [scanForKey_setSt, *]
  case seImm | sneImm | seReg | sneReg =>
    cases h
    exact congrArg _ (skipIf_setSt s b _)
  case orReg | andReg | xorReg =>
    cases h
    exact congrArg _ (logicOp_setSt s b _ _ _)
  case shr | shl =>
    cases h
    exact congrArg _ (flagThenShift_setSt s b _ _ _ _)
  all_goals
    cases h
    rfl

theorem encodedAs_ldStVx (x : Reg) : EncodedAs (0xF018 + x.val * 256) (.ldStVx x) :=
  encodedAs_familyF 0x18 rfl rfl

theorem exec_ldStVx (x : Reg) (s : State) : exec (.ldStVx x) s = .next (s.setSt (s.getV x)) := rfl

/-- Settles O55: FX18 is one `setSt`, which overwrites whatever ST held; every other instruction keeps
the changed ST and does the same beside it (`exec_setSt`). -/
theorem soundTimerIsWrittenAndNeverRead : Obligations.SoundTimerIsWrittenAndNeverRead := by
  refine ⟨fun x s => ⟨encodedAs_ldStVx x, _, exec_ldStVx x s, rfl, setSt_frame s _⟩,
    fun i s t b h => ?_⟩
  by_cases hi : ∃ x, i = .ldStVx x
  · obtain ⟨x, rfl⟩ := hi
    cases (exec_ldStVx x s).symm.trans h
    exact ⟨_, exec_ldStVx x (s.setSt b), .refl _ _⟩
  · exact ⟨_, exec_setSt b h (not_exists.mp hi), setSt_frame t b⟩

end Sys2Proof.Machine
